-- ==== Sys2Proof/Word.lean ====
section
/-! DEFINITION. The machine's widths (00_scope.md R6): the Word, the memory port's address, the operand and opcode fields, and the Word's plainest readings. -/
namespace Sys2Proof

/-- R6: a Word is 32 bits, two's complement. `+` and `-` of `BitVec 32` wrap modulo 2^32 (R9). -/
abbrev Word := BitVec 32

/-- R49: the memory port carries a 31-bit word address. -/
abbrev Addr := BitVec 31

/-- R6: the operand field is 16 bits, unsigned. -/
abbrev Operand := BitVec 16

/-- R6: the opcode field is 8 bits. -/
abbrev Opcode := BitVec 8

/-- R9: the signed value of a Word. -/
abbrev sval (w : Word) : Int := w.toInt

/-- R9: the unsigned value of a Word. -/
abbrev uval (w : Word) : Nat := w.toNat

/-- R9: `bool(b)` is the Word 1 if b is true and 0 if it is false. -/
def boolWord (b : Bool) : Word := if b then 1 else 0

end Sys2Proof
end

