-- ==== Sys2Proof/Config.lean ====
section
/-! DEFINITION. What an implementation fixes: the 60 operations that `OPCODE_MAP` numbers and the thirteen parameters of 00_scope.md R7. -/
namespace Sys2Proof

/-- R87: the closed enumerated type over all opcodes, in the order of R86. -/
inductive Op where
  | halt
  | lda | sta | ldx | ldy | stx | sty
  | add | sub | adc | sbc | and | ora | eor | asl | lsr | rol | ror
  | cmp | cpx | cpy
  | inc | dec | inx | iny | dex | dey
  | pha | pla | del | php | plp
  | jmp | beq | bne | bmi | bpl | bcc | bcs | bvc | bvs | loop | jsr | rts
  | tax | tay | txa | tya | tsx | txs
  | clc | sec | clv | cld | cli | sed | sei | nop | rti | bit
  deriving DecidableEq, Repr

/-- The 60 operations in the order of R86, by family. -/
def Op.all : List Op :=
  [.halt] ++
  [.lda, .sta, .ldx, .ldy, .stx, .sty] ++
  [.add, .sub, .adc, .sbc, .and, .ora, .eor, .asl, .lsr, .rol, .ror] ++
  [.cmp, .cpx, .cpy] ++
  [.inc, .dec, .inx, .iny, .dex, .dey] ++
  [.pha, .pla, .del, .php, .plp] ++
  [.jmp, .beq, .bne, .bmi, .bpl, .bcc, .bcs, .bvc, .bvs, .loop, .jsr, .rts] ++
  [.tax, .tay, .txa, .tya, .tsx, .txs] ++
  [.clc, .sec, .clv, .cld, .cli, .sed, .sei, .nop, .rti, .bit]

/-- `OPCODE_MAP` (R87) as data: one entry per operation, in the order of `Op.all`. -/
abbrev OpcodeMap := List (Op × Opcode)

/-- `HIGH_BYTE_POLICY` (R7, R84). -/
inductive HighBytePolicy where
  | unknown | ignore
  deriving DecidableEq, Repr

/-- `UNKNOWN_OPCODE_MODE` (R7, R291). -/
inductive UnknownOpcodeMode where
  | lenient | strict
  deriving DecidableEq, Repr

/-- `INDEX_STORAGE` (R7, R22). -/
inductive IndexStorage where
  | registers | sharedMemory
  deriving DecidableEq, Repr

/-- `TXS_GROW_POLICY` (R7, R44). -/
inductive TxsGrowPolicy where
  | fault | noop | padZero
  deriving DecidableEq, Repr

/-- `V_RULE` (R7, R29). -/
inductive VRule where
  | adcSbcBit7 | never
  deriving DecidableEq, Repr

/-- `SHIFT_WIDTH` (R7, R132). -/
inductive ShiftWidth where
  | bits32 | bits8
  deriving DecidableEq, Repr

/-- `SIGN_BIT` (R7, R31). -/
inductive SignBit where
  | bit31 | bit7
  deriving DecidableEq, Repr

/-- The parameters of R7, one field each; which settings are legal is `Config.legal` of WellFormed.lean. -/
structure Config where
  opcodeMap         : OpcodeMap
  highBytePolicy    : HighBytePolicy
  unknownOpcodeMode : UnknownOpcodeMode
  pcLimit           : Nat
  rtsIncrement      : Bool
  haltPcAdvance     : Bool
  indexStorage      : IndexStorage
  indexAliasAddr    : Operand
  txsGrowPolicy     : TxsGrowPolicy
  /-- `none` is `unbounded`. -/
  stackCapacity     : Option Nat
  vRule             : VRule
  shiftWidth        : ShiftWidth
  signBit           : SignBit
  deriving DecidableEq, Repr

end Sys2Proof
end

