-- ==== Sys2Proof/Syntax.lean ====
section
/-! DEFINITION. The instructions: one constructor per row of spec/opcode_table.json (30_encoding.md R86). Class M and class B carry their 16-bit operand; a class I operand is ignored (R81, R89) and is not part of the instruction. -/
namespace Sys2Proof

/-- The 60 instructions of R86. -/
inductive Instr where
  /-- HALT (alias BRK), R290: stop the run loop cleanly. -/
  | halt
  /-- LDA (alias LOAD), R100: A <- memory. -/
  | lda (operand : Operand)
  /-- STA (alias STORE), R101: memory <- A. -/
  | sta (operand : Operand)
  /-- LDX, R102: X <- memory. -/
  | ldx (operand : Operand)
  /-- LDY, R103: Y <- memory. -/
  | ldy (operand : Operand)
  /-- STX, R104: push X. -/
  | stx
  /-- STY, R105: push Y. -/
  | sty
  /-- ADD, R121: A <- A + memory. -/
  | add (operand : Operand)
  /-- SUB, R122: A <- A - memory. -/
  | sub (operand : Operand)
  /-- ADC, R123: add with carry, 8-bit result. -/
  | adc (operand : Operand)
  /-- SBC, R124: subtract with borrow, 8-bit result. -/
  | sbc (operand : Operand)
  /-- AND, R125: A <- A & memory. -/
  | and (operand : Operand)
  /-- ORA, R126: A <- A | memory. -/
  | ora (operand : Operand)
  /-- EOR, R127: A <- A ^ memory. -/
  | eor (operand : Operand)
  /-- ASL, R128: shift A left. -/
  | asl
  /-- LSR, R129: shift A right. -/
  | lsr
  /-- ROL, R130: rotate A left through C. -/
  | rol
  /-- ROR, R131: rotate A right through C. -/
  | ror
  /-- CMP, R160: compare A with memory and narrow A. -/
  | cmp (operand : Operand)
  /-- CPX, R161: compare X with memory. -/
  | cpx (operand : Operand)
  /-- CPY, R162: compare Y with memory. -/
  | cpy (operand : Operand)
  /-- INC, R170: increment a cell. -/
  | inc (operand : Operand)
  /-- DEC, R171: decrement a cell. -/
  | dec (operand : Operand)
  /-- INX, R172: increment X. -/
  | inx
  /-- INY, R173: increment Y. -/
  | iny
  /-- DEX, R174: decrement X. -/
  | dex
  /-- DEY, R175: decrement Y. -/
  | dey
  /-- PHA (alias PUSH), R190: push A. -/
  | pha
  /-- PLA (alias POP), R191: pop into A. -/
  | pla
  /-- DEL, R192: discard the top. -/
  | del
  /-- PHP, R193: push A. -/
  | php
  /-- PLP, R194: pop into A. -/
  | plp
  /-- JMP (alias GO), R211: jump. -/
  | jmp (operand : Operand)
  /-- BEQ (alias JZ), R212: branch if A is zero. -/
  | beq (operand : Operand)
  /-- BNE, R213: branch if A is not zero. -/
  | bne (operand : Operand)
  /-- BMI, R214: branch if N. -/
  | bmi (operand : Operand)
  /-- BPL, R215: branch if not N. -/
  | bpl (operand : Operand)
  /-- BCC, R216: branch if not C. -/
  | bcc (operand : Operand)
  /-- BCS, R217: branch if C. -/
  | bcs (operand : Operand)
  /-- BVC, R218: branch if not V. -/
  | bvc (operand : Operand)
  /-- BVS, R219: branch if V. -/
  | bvs (operand : Operand)
  /-- LOOP, R220: count the stack top down and branch. -/
  | loop (operand : Operand)
  /-- JSR, R221: push PC + 2 and jump. -/
  | jsr (operand : Operand)
  /-- RTS, R222: pop the PC. -/
  | rts
  /-- TAX, R250: X <- A. -/
  | tax
  /-- TAY, R251: Y <- A. -/
  | tay
  /-- TXA, R252: A <- X. -/
  | txa
  /-- TYA, R253: A <- Y. -/
  | tya
  /-- TSX, R254: X <- stack size. -/
  | tsx
  /-- TXS, R255: stack size <- X. -/
  | txs
  /-- CLC, R256: C <- false. -/
  | clc
  /-- SEC, R257: C <- true. -/
  | sec
  /-- CLV, R258: V <- false. -/
  | clv
  /-- CLD, R259: no effect. -/
  | cld
  /-- CLI, R260: no effect. -/
  | cli
  /-- SED, R261: no effect. -/
  | sed
  /-- SEI, R262: no effect. -/
  | sei
  /-- NOP, R263: no effect. -/
  | nop
  /-- RTI, R264: no effect. -/
  | rti
  /-- BIT, R265: no effect. -/
  | bit
  deriving DecidableEq, Repr

end Sys2Proof
end

