-- ==== Sys2Proof/WellFormed.lean ====
section
/-! DEFINITION. The checks. An instruction needs none: its operand has 16 bits by its type and no operand value is illegal (30_encoding.md R89). The parameters have the legal values of 00_scope.md R7, checked here one by one. -/
namespace Sys2Proof

/-- R87: `OPCODE_MAP` gives every one of the 60 operations one number (listed in the order of `Op.all`). -/
def OpcodeMap.complete (m : OpcodeMap) : Bool := decide (m.map Prod.fst = Op.all)

/-- R87: `OPCODE_MAP` is injective. -/
def OpcodeMap.injective (m : OpcodeMap) : Bool := decide (m.map Prod.snd).Nodup

/-- R87: `OPCODE_MAP(HALT) = 0x00`. -/
def OpcodeMap.haltIsZero (m : OpcodeMap) : Bool := decide ((Op.halt, 0) ∈ m)

/-- R7: `1 <= PC_LIMIT <= 2^31`. -/
def Config.pcLimitInRange (cfg : Config) : Bool := decide (1 ≤ cfg.pcLimit ∧ cfg.pcLimit ≤ 2 ^ 31)

/-- R7: `STACK_CAPACITY` is a positive integer, or unbounded. -/
def Config.capacityPositive (cfg : Config) : Bool :=
  match cfg.stackCapacity with
  | none => true
  | some n => decide (0 < n)

/-- R7: every parameter has a legal value (the other parameters' types hold legal values only). -/
def Config.legal (cfg : Config) : Bool :=
  cfg.opcodeMap.complete && cfg.opcodeMap.injective && cfg.opcodeMap.haltIsZero &&
    cfg.pcLimitInRange && cfg.capacityPositive

end Sys2Proof
end

