-- ==== Sys2Proof/Decode.lean ====
section
/-! DEFINITION. The encoding of 30_encoding.md: the fields of a Word, the decoder (R84), then the encoder (R91), the reference opcode map (R86) with the default parameters (00_scope.md R7), and the assembler's mnemonics (R85, R92). -/
namespace Sys2Proof

/-! ### Fields (R80) -/

/-- Bits 31:24. -/
def hiField (w : Word) : BitVec 8 := w.extractLsb' 24 8

/-- Bits 23:16, the opcode. -/
def opcField (w : Word) : Opcode := w.extractLsb' 16 8

/-- Bits 15:0, the operand. -/
def operandField (w : Word) : Operand := w.extractLsb' 0 16

/-! ### Operations and instructions -/

/-- The operation of an instruction. -/
def Instr.op : Instr → Op
  | .halt => .halt
  | .lda _ => .lda
  | .sta _ => .sta
  | .ldx _ => .ldx
  | .ldy _ => .ldy
  | .stx => .stx
  | .sty => .sty
  | .add _ => .add
  | .sub _ => .sub
  | .adc _ => .adc
  | .sbc _ => .sbc
  | .and _ => .and
  | .ora _ => .ora
  | .eor _ => .eor
  | .asl => .asl
  | .lsr => .lsr
  | .rol => .rol
  | .ror => .ror
  | .cmp _ => .cmp
  | .cpx _ => .cpx
  | .cpy _ => .cpy
  | .inc _ => .inc
  | .dec _ => .dec
  | .inx => .inx
  | .iny => .iny
  | .dex => .dex
  | .dey => .dey
  | .pha => .pha
  | .pla => .pla
  | .del => .del
  | .php => .php
  | .plp => .plp
  | .jmp _ => .jmp
  | .beq _ => .beq
  | .bne _ => .bne
  | .bmi _ => .bmi
  | .bpl _ => .bpl
  | .bcc _ => .bcc
  | .bcs _ => .bcs
  | .bvc _ => .bvc
  | .bvs _ => .bvs
  | .loop _ => .loop
  | .jsr _ => .jsr
  | .rts => .rts
  | .tax => .tax
  | .tay => .tay
  | .txa => .txa
  | .tya => .tya
  | .tsx => .tsx
  | .txs => .txs
  | .clc => .clc
  | .sec => .sec
  | .clv => .clv
  | .cld => .cld
  | .cli => .cli
  | .sed => .sed
  | .sei => .sei
  | .nop => .nop
  | .rti => .rti
  | .bit => .bit

/-- The operand field an instruction is encoded with: for class I the spec writes 0 (R91). -/
def Instr.operand : Instr → Operand
  | .halt => 0
  | .lda operand => operand
  | .sta operand => operand
  | .ldx operand => operand
  | .ldy operand => operand
  | .stx => 0
  | .sty => 0
  | .add operand => operand
  | .sub operand => operand
  | .adc operand => operand
  | .sbc operand => operand
  | .and operand => operand
  | .ora operand => operand
  | .eor operand => operand
  | .asl => 0
  | .lsr => 0
  | .rol => 0
  | .ror => 0
  | .cmp operand => operand
  | .cpx operand => operand
  | .cpy operand => operand
  | .inc operand => operand
  | .dec operand => operand
  | .inx => 0
  | .iny => 0
  | .dex => 0
  | .dey => 0
  | .pha => 0
  | .pla => 0
  | .del => 0
  | .php => 0
  | .plp => 0
  | .jmp operand => operand
  | .beq operand => operand
  | .bne operand => operand
  | .bmi operand => operand
  | .bpl operand => operand
  | .bcc operand => operand
  | .bcs operand => operand
  | .bvc operand => operand
  | .bvs operand => operand
  | .loop operand => operand
  | .jsr operand => operand
  | .rts => 0
  | .tax => 0
  | .tay => 0
  | .txa => 0
  | .tya => 0
  | .tsx => 0
  | .txs => 0
  | .clc => 0
  | .sec => 0
  | .clv => 0
  | .cld => 0
  | .cli => 0
  | .sed => 0
  | .sei => 0
  | .nop => 0
  | .rti => 0
  | .bit => 0

/-- The operand's use (R81). -/
inductive OperandClass where
  | memory | branch | implied
  deriving DecidableEq, Repr

/-- The class of each operation (R81, R86). -/
def Op.operandClass : Op → OperandClass
  | .halt => .implied
  | .lda => .memory
  | .sta => .memory
  | .ldx => .memory
  | .ldy => .memory
  | .stx => .implied
  | .sty => .implied
  | .add => .memory
  | .sub => .memory
  | .adc => .memory
  | .sbc => .memory
  | .and => .memory
  | .ora => .memory
  | .eor => .memory
  | .asl => .implied
  | .lsr => .implied
  | .rol => .implied
  | .ror => .implied
  | .cmp => .memory
  | .cpx => .memory
  | .cpy => .memory
  | .inc => .memory
  | .dec => .memory
  | .inx => .implied
  | .iny => .implied
  | .dex => .implied
  | .dey => .implied
  | .pha => .implied
  | .pla => .implied
  | .del => .implied
  | .php => .implied
  | .plp => .implied
  | .jmp => .branch
  | .beq => .branch
  | .bne => .branch
  | .bmi => .branch
  | .bpl => .branch
  | .bcc => .branch
  | .bcs => .branch
  | .bvc => .branch
  | .bvs => .branch
  | .loop => .branch
  | .jsr => .branch
  | .rts => .implied
  | .tax => .implied
  | .tay => .implied
  | .txa => .implied
  | .tya => .implied
  | .tsx => .implied
  | .txs => .implied
  | .clc => .implied
  | .sec => .implied
  | .clv => .implied
  | .cld => .implied
  | .cli => .implied
  | .sed => .implied
  | .sei => .implied
  | .nop => .implied
  | .rti => .implied
  | .bit => .implied

/-- The instruction an operation and an operand field make; a class I operation ignores the field (R89). -/
def Op.withOperand : Op → Operand → Instr
  | .halt, _ => .halt
  | .lda, operand => .lda operand
  | .sta, operand => .sta operand
  | .ldx, operand => .ldx operand
  | .ldy, operand => .ldy operand
  | .stx, _ => .stx
  | .sty, _ => .sty
  | .add, operand => .add operand
  | .sub, operand => .sub operand
  | .adc, operand => .adc operand
  | .sbc, operand => .sbc operand
  | .and, operand => .and operand
  | .ora, operand => .ora operand
  | .eor, operand => .eor operand
  | .asl, _ => .asl
  | .lsr, _ => .lsr
  | .rol, _ => .rol
  | .ror, _ => .ror
  | .cmp, operand => .cmp operand
  | .cpx, operand => .cpx operand
  | .cpy, operand => .cpy operand
  | .inc, operand => .inc operand
  | .dec, operand => .dec operand
  | .inx, _ => .inx
  | .iny, _ => .iny
  | .dex, _ => .dex
  | .dey, _ => .dey
  | .pha, _ => .pha
  | .pla, _ => .pla
  | .del, _ => .del
  | .php, _ => .php
  | .plp, _ => .plp
  | .jmp, operand => .jmp operand
  | .beq, operand => .beq operand
  | .bne, operand => .bne operand
  | .bmi, operand => .bmi operand
  | .bpl, operand => .bpl operand
  | .bcc, operand => .bcc operand
  | .bcs, operand => .bcs operand
  | .bvc, operand => .bvc operand
  | .bvs, operand => .bvs operand
  | .loop, operand => .loop operand
  | .jsr, operand => .jsr operand
  | .rts, _ => .rts
  | .tax, _ => .tax
  | .tay, _ => .tay
  | .txa, _ => .txa
  | .tya, _ => .tya
  | .tsx, _ => .tsx
  | .txs, _ => .txs
  | .clc, _ => .clc
  | .sec, _ => .sec
  | .clv, _ => .clv
  | .cld, _ => .cld
  | .cli, _ => .cli
  | .sed, _ => .sed
  | .sei, _ => .sei
  | .nop, _ => .nop
  | .rti, _ => .rti
  | .bit, _ => .bit

/-! ### The opcode map (R87) -/

/-- `OPCODE_MAP(op)`. The 0 for an operation the map lacks is never reached under a legal map. -/
def OpcodeMap.number (m : OpcodeMap) (op : Op) : Opcode :=
  match m.find? (fun e => e.1 == op) with
  | some e => e.2
  | none => 0

/-- The operation whose number is `opc`, if there is one. -/
def OpcodeMap.operation (m : OpcodeMap) (opc : Opcode) : Option Op :=
  (m.find? (fun e => e.2 == opc)).map Prod.fst

/-! ### Decode (R84) -/

/-- Why a Word decodes as `Unknown` (R84, R88). -/
inductive Unknown where
  /-- Bits 31:24 are not zero under `HIGH_BYTE_POLICY = unknown`. -/
  | highByte
  /-- No operation has this opcode number. -/
  | noOperation
  deriving DecidableEq, Repr

/-- `decode(hi, opc)` of R84, with the operand field: total on every Word. -/
def decode (cfg : Config) (w : Word) : Except Unknown Instr :=
  if hiField w ≠ 0 ∧ cfg.highBytePolicy = .unknown then .error .highByte
  else
    match cfg.opcodeMap.operation (opcField w) with
    | some op => .ok (op.withOperand (operandField w))
    | none => .error .noOperation

/-! ### Encode (R91) -/

/-- `(opcode << 16) | (operand & 0xFFFF)`: an operand value wider than 16 bits is truncated by the mask. -/
def packWord (opc : Opcode) (operand : Word) : Word :=
  (opc.setWidth 32 <<< 16) ||| (operand &&& 0xFFFF)

/-- The Word of an instruction. -/
def encode (cfg : Config) (i : Instr) : Word :=
  packWord (cfg.opcodeMap.number i.op) (i.operand.setWidth 32)

/-! ### The reference map and the default parameters -/

/-- The reference opcode numbers of R86 (the spec's decision D1; only HALT's number is the source's). -/
def referenceOpcode : Op → Opcode
  | .halt => 0x00
  | .lda => 0x01
  | .sta => 0x02
  | .ldx => 0x03
  | .ldy => 0x04
  | .stx => 0x05
  | .sty => 0x06
  | .add => 0x07
  | .sub => 0x08
  | .adc => 0x09
  | .sbc => 0x0A
  | .and => 0x0B
  | .ora => 0x0C
  | .eor => 0x0D
  | .asl => 0x0E
  | .lsr => 0x0F
  | .rol => 0x10
  | .ror => 0x11
  | .cmp => 0x12
  | .cpx => 0x13
  | .cpy => 0x14
  | .inc => 0x15
  | .dec => 0x16
  | .inx => 0x17
  | .iny => 0x18
  | .dex => 0x19
  | .dey => 0x1A
  | .pha => 0x1B
  | .pla => 0x1C
  | .del => 0x1D
  | .php => 0x1E
  | .plp => 0x1F
  | .jmp => 0x20
  | .beq => 0x21
  | .bne => 0x22
  | .bmi => 0x23
  | .bpl => 0x24
  | .bcc => 0x25
  | .bcs => 0x26
  | .bvc => 0x27
  | .bvs => 0x28
  | .loop => 0x29
  | .jsr => 0x2A
  | .rts => 0x2B
  | .tax => 0x2C
  | .tay => 0x2D
  | .txa => 0x2E
  | .tya => 0x2F
  | .tsx => 0x30
  | .txs => 0x31
  | .clc => 0x32
  | .sec => 0x33
  | .clv => 0x34
  | .cld => 0x35
  | .cli => 0x36
  | .sed => 0x37
  | .sei => 0x38
  | .nop => 0x39
  | .rti => 0x3A
  | .bit => 0x3B

/-- `OPCODE_MAP`'s default (R86). -/
def referenceOpcodeMap : OpcodeMap := Op.all.map fun op => (op, referenceOpcode op)

/-- The default of every parameter (R7). -/
def Config.reference : Config where
  opcodeMap := referenceOpcodeMap
  highBytePolicy := .unknown
  unknownOpcodeMode := .lenient
  pcLimit := 2 ^ 31
  rtsIncrement := true
  haltPcAdvance := false
  indexStorage := .registers
  indexAliasAddr := 0x00FF
  txsGrowPolicy := .fault
  stackCapacity := none
  vRule := .adcSbcBit7
  shiftWidth := .bits32
  signBit := .bit31

/-- The instruction word that the opcode table numbers: bit 0 is the Word's bit 0, the bits from `nbits` up are 0. One instruction is one Word (R90). -/
def tableWord (nbits w : Nat) : Word := BitVec.ofNat 32 (w % 2 ^ nbits)

/-- The instruction the decoder reads from a table word under the default parameters. -/
def decodeTableWord (nbits w : Nat) : Option Instr := (decode Config.reference (tableWord nbits w)).toOption

/-! ### Assembler (R85, R92) -/

/-- The mnemonics of an operation: its canonical name, then its alias where it has one (R85). -/
def Op.mnemonics : Op → List String
  | .halt => ["HALT", "BRK"]
  | .lda => ["LDA", "LOAD"]
  | .sta => ["STA", "STORE"]
  | .ldx => ["LDX"]
  | .ldy => ["LDY"]
  | .stx => ["STX"]
  | .sty => ["STY"]
  | .add => ["ADD"]
  | .sub => ["SUB"]
  | .adc => ["ADC"]
  | .sbc => ["SBC"]
  | .and => ["AND"]
  | .ora => ["ORA"]
  | .eor => ["EOR"]
  | .asl => ["ASL"]
  | .lsr => ["LSR"]
  | .rol => ["ROL"]
  | .ror => ["ROR"]
  | .cmp => ["CMP"]
  | .cpx => ["CPX"]
  | .cpy => ["CPY"]
  | .inc => ["INC"]
  | .dec => ["DEC"]
  | .inx => ["INX"]
  | .iny => ["INY"]
  | .dex => ["DEX"]
  | .dey => ["DEY"]
  | .pha => ["PHA", "PUSH"]
  | .pla => ["PLA", "POP"]
  | .del => ["DEL"]
  | .php => ["PHP"]
  | .plp => ["PLP"]
  | .jmp => ["JMP", "GO"]
  | .beq => ["BEQ", "JZ"]
  | .bne => ["BNE"]
  | .bmi => ["BMI"]
  | .bpl => ["BPL"]
  | .bcc => ["BCC"]
  | .bcs => ["BCS"]
  | .bvc => ["BVC"]
  | .bvs => ["BVS"]
  | .loop => ["LOOP"]
  | .jsr => ["JSR"]
  | .rts => ["RTS"]
  | .tax => ["TAX"]
  | .tay => ["TAY"]
  | .txa => ["TXA"]
  | .tya => ["TYA"]
  | .tsx => ["TSX"]
  | .txs => ["TXS"]
  | .clc => ["CLC"]
  | .sec => ["SEC"]
  | .clv => ["CLV"]
  | .cld => ["CLD"]
  | .cli => ["CLI"]
  | .sed => ["SED"]
  | .sei => ["SEI"]
  | .nop => ["NOP"]
  | .rti => ["RTI"]
  | .bit => ["BIT"]

/-- The operation a mnemonic names, if there is one. -/
def opOfMnemonic (name : String) : Option Op := Op.all.find? fun op => op.mnemonics.contains name

/-- One item `MNEMONIC operand` of a program (R92): an omitted operand is 0, and an operand is reduced to its low 16 bits (R91). -/
def assembleItem (cfg : Config) (name : String) (operand : Option Nat) : Option Word :=
  (opOfMnemonic name).map fun op => packWord (cfg.opcodeMap.number op) (BitVec.ofNat 32 (operand.getD 0))

/-- A program, one Word an item, placed from address 0 (R92); none if an item's mnemonic is unknown. -/
def assembleProgram (cfg : Config) : List (String × Option Nat) → Option (List Word)
  | [] => some []
  | (name, operand) :: items =>
    match assembleItem cfg name operand, assembleProgram cfg items with
    | some w, some ws => some (w :: ws)
    | _, _ => none

/-- A digit in base 10 or 16; a hexadecimal digit may have either case. -/
def digitValue (base : Nat) (c : Char) : Option Nat :=
  let n := c.toNat
  let value :=
    if 48 ≤ n ∧ n ≤ 57 then some (n - 48)
    else if 65 ≤ n ∧ n ≤ 70 then some (n - 55)
    else if 97 ≤ n ∧ n ≤ 102 then some (n - 87)
    else none
  value.filter (· < base)

/-- The number that digits continue, if all of them are digits. -/
def parseDigits (base : Nat) : List Char → Nat → Option Nat
  | [], acc => some acc
  | c :: cs, acc =>
    match digitValue base c with
    | some d => parseDigits base cs (acc * base + d)
    | none => none

/-- An operand as R92 writes it: a decimal number, or a hexadecimal one after `0x`. -/
def parseOperand : List Char → Option Nat
  | [] => none
  | ['0', 'x'] => none
  | '0' :: 'x' :: digits => parseDigits 16 digits 0
  | digits => parseDigits 10 digits 0

/-- One item as text (R92): the mnemonic, then nothing, or one space and the operand. -/
def assembleText (cfg : Config) (text : String) : Option Word :=
  let name := text.toList.takeWhile (· != ' ')
  match text.toList.dropWhile (· != ' ') with
  | [] => assembleItem cfg (String.ofList name) none
  | _ :: digits =>
    match parseOperand digits with
    | some v => assembleItem cfg (String.ofList name) (some v)
    | none => none

end Sys2Proof
end

