-- ==== Sys2Proof/Machine/State.lean ====
section
/-! DEFINITION. The machine's state as plain data (10_state.md R48), the reasons a step can stop, and the state after reset (R52). -/
namespace Sys2Proof.Machine

/-- R34: the run status. -/
inductive Status where
  | running | halted | faulted
  deriving DecidableEq, Repr

/-- R300: the machine's own fault kinds. -/
inductive FaultKind where
  /-- PLA, PLP, DEL, RTS, LOOP on an empty stack (R301). -/
  | stackUnderflow
  /-- The PC check before fetch (R302). -/
  | outOfRangeProgramCounter
  /-- An unknown word in strict mode (R293, R303). -/
  | unknownOpcode
  /-- Never raised: there is no division instruction (R307). -/
  | divisionByZero
  /-- TXS with a negative or too large size (R306). -/
  | stackSizeRange
  /-- A push on a full stack of finite capacity (R305). -/
  | stackOverflow
  deriving DecidableEq, Repr

/-- R35: the fault record; `opcode` is `none` when the fault is raised before fetch. -/
structure FaultRecord where
  kind   : FaultKind
  opcode : Option Opcode
  pc     : Word
  deriving DecidableEq, Repr

/-- The memory's listed cells, address and Word (20_memory.md R60): addresses strictly rising, no cell equal to what an unlisted address reads as (`Memory.wf`). -/
abbrev Memory := List (Nat × Word)

/-- R48: the complete state `(A, X, Y, PC, C, V, S, status, fault, unk_count)`, with the memory that is stepped with it, and the model's own `cfg`: the parameters of 00_scope.md R7, which nothing changes (log 1). -/
structure State where
  /-- The accumulator A (R20). -/
  a        : Word
  /-- Index register X (R21). -/
  x        : Word
  /-- Index register Y (R21). -/
  y        : Word
  /-- The program counter PC (R24). -/
  pc       : Word
  /-- The carry flag C (R28). -/
  c        : Bool
  /-- The overflow flag V (R29). -/
  v        : Bool
  /-- The operand stack S, its top last (R37). -/
  stack    : List Word
  /-- The run status (R34). -/
  status   : Status
  /-- The fault record (R35). -/
  fault    : Option FaultRecord
  /-- `unk_count` (R36). -/
  unkCount : Nat
  /-- The external memory (R60). -/
  mem      : Memory
  /-- The parameters (R7): configuration, not machine state (R48). -/
  cfg      : Config
  deriving DecidableEq, Repr

/-- The reasons a step can stop outside the machine's own terms. The machine's fatal faults are NOT here: the spec gives them a next state (60_exceptions.md R304). -/
inductive Fault where
  /-- Raised by `step` alone, when the state's parameters are outside the legal values of 00_scope.md R7, so that the spec describes no such machine. Safe: no claim is made about it. -/
  | illegalParameters
  deriving DecidableEq, Repr

/-- The reasons an instruction is refused. -/
inductive Refusal where
  /-- An instruction that has no meaning yet; no arm of `exec` uses it. Safe. -/
  | notModelled (mnemonic : String)
  deriving DecidableEq, Repr

/-- R52, R330, R332: the machine right after reset. Memory is 0 everywhere, so no cell is listed; the parameters have their defaults (R7). -/
def State.reset : State where
  a := 0
  x := 0
  y := 0
  pc := 0
  c := false
  v := false
  stack := []
  status := .running
  fault := none
  unkCount := 0
  mem := []
  cfg := Config.reference

end Sys2Proof.Machine
end

