-- ==== Sys2Proof/Machine/Flags.lean ====
section
/-! DEFINITION. The ALU's results and flags (10_state.md R28 to R31, 41_arithmetic.md, 42_compare.md), as functions of Words. -/
namespace Sys2Proof.Machine

/-- `w & 0xFF`. -/
def lowByte (w : Word) : Word := w &&& 0xFF

/-- R30: `Z = (A == 0)` over all 32 bits. -/
def zeroFlag (a : Word) : Bool := a == 0

/-- The bit number `SIGN_BIT` stands for (R7). -/
def signBitIndex : SignBit → Nat
  | .bit31 => 31
  | .bit7 => 7

/-- R31: `N = A[SIGN_BIT]`. -/
def signFlag (b : SignBit) (a : Word) : Bool := a.getLsbD (signBitIndex b)

/-- `a >=s b` (R9). -/
def geSigned (a b : Word) : Bool := decide (sval b ≤ sval a)

/-- R123: the 32-bit intermediate `r = A + M + bool(C)`. -/
def adcSum (a m : Word) (c : Bool) : Word := a + m + boolWord c

/-- R123: `C <- (r >s 0xFF)`. -/
def adcCarry (r : Word) : Bool := decide (sval r > 0xFF)

/-- R123: `((A ^ r) & (M ^ r))[7]`. -/
def adcOverflow (a m r : Word) : Bool := ((a ^^^ r) &&& (m ^^^ r)).getLsbD 7

/-- R124: the 32-bit intermediate `r = A - M - (1 - bool(C))`. -/
def sbcDifference (a m : Word) (c : Bool) : Word := a - m - (1 - boolWord c)

/-- R124: `C <- (r >=s 0)`. -/
def sbcCarry (r : Word) : Bool := geSigned r 0

/-- R124: `((A ^ M) & (A ^ r))[7]`. -/
def sbcOverflow (a m r : Word) : Bool := ((a ^^^ m) &&& (a ^^^ r)).getLsbD 7

/-- R29: V after ADC or SBC: the new value under `V_RULE = adc_sbc_bit7`, else unchanged. -/
def overflowUnder : VRule → (new old : Bool) → Bool
  | .adcSbcBit7, new, _ => new
  | .never, _, old => old

/-- R160: `(A - M) & 0xFF`. -/
def cmpResult (a m : Word) : Word := lowByte (a - m)

/-- What a shift or rotate leaves: the accumulator and the bit shifted out. -/
structure ShiftResult where
  value : Word
  carry : Bool
  deriving DecidableEq, Repr

/-- ASL (R128; the 8-bit form R132). -/
def aslOf : ShiftWidth → Word → ShiftResult
  | .bits32, a => { value := a <<< 1, carry := a.getLsbD 31 }
  | .bits8, a => { value := lowByte (lowByte a <<< 1), carry := (lowByte a).getLsbD 7 }

/-- LSR (R129; the 8-bit form R132). -/
def lsrOf : ShiftWidth → Word → ShiftResult
  | .bits32, a => { value := a >>> 1, carry := a.getLsbD 0 }
  | .bits8, a => { value := lowByte a >>> 1, carry := (lowByte a).getLsbD 0 }

/-- ROL through the carry (R130; the 8-bit form R132). -/
def rolOf : ShiftWidth → Word → Bool → ShiftResult
  | .bits32, a, c => { value := (a <<< 1) ||| boolWord c, carry := a.getLsbD 31 }
  | .bits8, a, c => { value := lowByte ((lowByte a <<< 1) ||| boolWord c), carry := (lowByte a).getLsbD 7 }

/-- ROR through the carry (R131; the 8-bit form R132). -/
def rorOf : ShiftWidth → Word → Bool → ShiftResult
  | .bits32, a, c => { value := (a >>> 1) ||| (boolWord c <<< 31), carry := a.getLsbD 0 }
  | .bits8, a, c => { value := (lowByte a >>> 1) ||| (boolWord c <<< 7), carry := (lowByte a).getLsbD 0 }

end Sys2Proof.Machine
end

