-- ==== Sys2Proof/Machine/Operands.lean ====
section
/-! DEFINITION. The operand forms (30_encoding.md R81) and the address the PC fetches from. -/
namespace Sys2Proof.Machine

/-- Class M: `ea = zext_32(operand)`, on the 31-bit memory port (R49, R63). -/
def ea (operand : Operand) : Addr := operand.setWidth 31

/-- Class B: the PC write `zext_32(operand) - 1` (R210); the increment that follows lands on the operand. -/
def branchWrite (operand : Operand) : Word := operand.setWidth 32 - 1

/-- The fetch address: the PC on the 31-bit port, exact for every PC that passes the PC check. -/
def fetchAddr (pc : Word) : Addr := pc.setWidth 31

/-- The cell INX, INY, DEX and DEY use when `INDEX_STORAGE = shared_memory` (R22). -/
def aliasAddr (cfg : Config) : Addr := ea cfg.indexAliasAddr

/-- The PC check of R82: not `PC <s 0` and not `sval(PC) >= PC_LIMIT`. -/
def pcInRange (cfg : Config) (pc : Word) : Bool := decide (0 ≤ sval pc ∧ sval pc < cfg.pcLimit)

end Sys2Proof.Machine
end

