-- ==== Sys2Proof/Machine/Ops.lean ====
section
/-! DEFINITION. The named operations every meaning is written over: memory, registers, the stack controller, taking a fault, the end of an instruction, and resetting the core. -/
namespace Sys2Proof.Machine

/-! ### Memory (20_memory.md) -/

/-- R61: what an address never written reads as. -/
def unlistedWord : Word := 0

/-- The Word at an address: the listed one, or `unlistedWord` (R61). -/
def Memory.read : Memory → Nat → Word
  | [], _ => unlistedWord
  | (b, w) :: m, a => if b = a then w else Memory.read m a

/-- A cell put at its place in a rising list that does not list its address. -/
def Memory.insert : Memory → Nat → Word → Memory
  | [], a, w => [(a, w)]
  | (b, u) :: m, a, w => if a < b then (a, w) :: (b, u) :: m else (b, u) :: Memory.insert m a w

/-- R62: the Word at `a` replaced by `w`, in canonical form. -/
def Memory.write (m : Memory) (a : Nat) (w : Word) : Memory :=
  let others := m.filter fun cell => cell.1 != a
  if w = unlistedWord then others else Memory.insert others a w

/-- The canonical form: addresses strictly rising, on the port's 2^31 addresses (R60), no cell equal to what an unlisted address reads as. -/
abbrev Memory.wf (m : Memory) : Prop :=
  m.Pairwise (fun p q => p.1 < q.1) ∧ ∀ cell ∈ m, cell.1 < 2 ^ 31 ∧ cell.2 ≠ unlistedWord

/-- `MemRead(addr, 1)` (R10, R61). -/
def State.memRead (s : State) (addr : Addr) : Word := s.mem.read addr.toNat

/-- `MemWrite(addr, 1, w)` (R10, R62). -/
def State.memWrite (s : State) (addr : Addr) (w : Word) : State := { s with mem := s.mem.write addr.toNat w }

/-! ### Registers and flags (10_state.md R20 to R29): one write each -/

def State.setA (s : State) (w : Word) : State := { s with a := w }
def State.setX (s : State) (w : Word) : State := { s with x := w }
def State.setY (s : State) (w : Word) : State := { s with y := w }
def State.setPc (s : State) (w : Word) : State := { s with pc := w }
def State.setC (s : State) (b : Bool) : State := { s with c := b }
def State.setV (s : State) (b : Bool) : State := { s with v := b }
def State.setStack (s : State) (l : List Word) : State := { s with stack := l }

/-! ### Stack controller (10_state.md R37 to R46) -/

/-- R43: `size()`. -/
def State.stackSize (s : State) : Nat := s.stack.length

/-- R43: `isEmpty()`. -/
def State.stackIsEmpty (s : State) : Bool := s.stackSize == 0

/-- R40: `push(v)`. -/
def State.push (s : State) (w : Word) : Except FaultKind State :=
  if s.cfg.stackCapacity = some s.stackSize then .error .stackOverflow
  else .ok (s.setStack (s.stack ++ [w]))

/-- R42: `top()`. -/
def State.top (s : State) : Except FaultKind Word :=
  match s.stack.getLast? with
  | none => .error .stackUnderflow
  | some w => .ok w

/-- R42: `replaceTop(v)`, called only after `top()` succeeded. -/
def State.replaceTop (s : State) (w : Word) : State := s.setStack (s.stack.dropLast ++ [w])

/-- R41: `pop()`: the top entry and the state without it. -/
def State.pop (s : State) : Except FaultKind (Word × State) :=
  match s.stack.getLast? with
  | none => .error .stackUnderflow
  | some w => .ok (w, s.setStack s.stack.dropLast)

/-- R44, `pad_zero`: one `push(0)` for each of `n` missing entries. -/
def State.pushZeros : Nat → State → Except FaultKind State
  | 0, s => .ok s
  | n + 1, s =>
    match s.push 0 with
    | .error k => .error k
    | .ok t => State.pushZeros n t

/-- R44: `setSize(n)` for a Word n. -/
def State.setSize (s : State) (n : Word) : Except FaultKind State :=
  if sval n < 0 then .error .stackSizeRange
  else if sval n ≤ s.stackSize then .ok (s.setStack (s.stack.take (uval n)))
  else
    match s.cfg.txsGrowPolicy with
    | .fault => .error .stackSizeRange
    | .noop => .ok s
    | .padZero => State.pushZeros (uval n - s.stackSize) s

/-- R45: `clear()`. -/
def State.clearStack (s : State) : State := s.setStack []

/-! ### Taking a fault, and the end of an instruction -/

/-- R304: a fatal fault ends the run. The state is the one before the step, so nothing else changes and `PC` stays on the faulting instruction; no handler is entered (R310). Nothing returns from it (R311): only `State.coreReset` leaves it. -/
def State.takeFault (s : State) (kind : FaultKind) (opcode : Option Opcode) : State :=
  { s with status := .faulted, fault := some { kind := kind, opcode := opcode, pc := s.pc } }

/-- R83: the PC advance after an operation's execute phase; RTS has none when `RTS_INCREMENT = false`. -/
def State.advance (s : State) (op : Op) : State :=
  if op = .rts ∧ s.cfg.rtsIncrement = false then s else s.setPc (s.pc + 1)

/-- R82: what follows the execute phase of `op` begun in `s`: its fault taken in the saved state `s`, with the opcode number of `op`, or the PC advance. -/
def endInstr (op : Op) (s : State) : Except FaultKind State → Host.Outcome State Fault Refusal
  | .error k => .next (s.takeFault k (some (s.cfg.opcodeMap.number op)))
  | .ok t => .next (t.advance op)

/-- The execute phase of an instruction that pops into a register or the PC: `write (pop())`. -/
def State.popInto (s : State) (write : State → Word → State) : Except FaultKind State :=
  match s.pop with
  | .error k => .error k
  | .ok (w, t) => .ok (write t w)

/-- R210: the taken-branch write, when the condition holds. -/
def State.branchIf (s : State) (cond : Bool) (operand : Operand) : State :=
  if cond then s.setPc (branchWrite operand) else s

/-! ### Fetch, unknown words, reset -/

/-- R82: the instruction Word at the PC. -/
def State.fetchWord (s : State) : Word := s.memRead (fetchAddr s.pc)

/-- R292, R293: a Word that decodes as `Unknown`, with its opcode field. -/
def State.unknownWord (s : State) (opc : Opcode) : State :=
  match s.cfg.unknownOpcodeMode with
  | .lenient => { s with unkCount := s.unkCount + 1, pc := s.pc + 1 }
  | .strict => s.takeFault .unknownOpcode (some opc)

/-- R330: reset of the core state; memory and parameters stay. The only way out of Halted and Faulted (R311). -/
def State.coreReset (s : State) : State :=
  { (State.reset : State) with mem := s.mem, cfg := s.cfg }

/-- A Word put where the next step fetches: the least of a program load (R331), memory only. -/
def State.placeWord (s : State) (w : Word) : State := s.memWrite (fetchAddr s.pc) w

end Sys2Proof.Machine
end

