-- ==== Sys2Proof/Machine/Arithmetic.lean ====
section
/-! DEFINITION. Arithmetic, logic, shift and rotate instructions (41_arithmetic.md R120 to R132). -/
namespace Sys2Proof.Machine

/-- R121: `A <- A + MemRead(ea, 1)`; no flag. -/
def execAdd (operand : Operand) (s : State) : Host.Outcome State Fault Refusal :=
  endInstr .add s (.ok (s.setA (s.a + s.memRead (ea operand))))

/-- R122: `A <- A - MemRead(ea, 1)`; no flag. -/
def execSub (operand : Operand) (s : State) : Host.Outcome State Fault Refusal :=
  endInstr .sub s (.ok (s.setA (s.a - s.memRead (ea operand))))

/-- R123: C from the 32-bit sum, V under `V_RULE`, A its low byte. -/
def execAdc (operand : Operand) (s : State) : Host.Outcome State Fault Refusal :=
  let m := s.memRead (ea operand)
  let r := adcSum s.a m s.c
  endInstr .adc s (.ok (((s.setC (adcCarry r)).setV
    (overflowUnder s.cfg.vRule (adcOverflow s.a m r) s.v)).setA (lowByte r)))

/-- R124: C from the 32-bit difference, V under `V_RULE`, A its low byte. -/
def execSbc (operand : Operand) (s : State) : Host.Outcome State Fault Refusal :=
  let m := s.memRead (ea operand)
  let r := sbcDifference s.a m s.c
  endInstr .sbc s (.ok (((s.setC (sbcCarry r)).setV
    (overflowUnder s.cfg.vRule (sbcOverflow s.a m r) s.v)).setA (lowByte r)))

/-- R125: `A <- A & MemRead(ea, 1)`. -/
def execAnd (operand : Operand) (s : State) : Host.Outcome State Fault Refusal :=
  endInstr .and s (.ok (s.setA (s.a &&& s.memRead (ea operand))))

/-- R126: `A <- A | MemRead(ea, 1)`. -/
def execOra (operand : Operand) (s : State) : Host.Outcome State Fault Refusal :=
  endInstr .ora s (.ok (s.setA (s.a ||| s.memRead (ea operand))))

/-- R127: `A <- A ^ MemRead(ea, 1)`. -/
def execEor (operand : Operand) (s : State) : Host.Outcome State Fault Refusal :=
  endInstr .eor s (.ok (s.setA (s.a ^^^ s.memRead (ea operand))))

/-- The writeback of a shift or rotate: A and C; V is unchanged. -/
def State.writeShift (s : State) (r : ShiftResult) : State := (s.setC r.carry).setA r.value

/-- R128, R132: ASL. -/
def execAsl (s : State) : Host.Outcome State Fault Refusal :=
  endInstr .asl s (.ok (s.writeShift (aslOf s.cfg.shiftWidth s.a)))

/-- R129, R132: LSR. -/
def execLsr (s : State) : Host.Outcome State Fault Refusal :=
  endInstr .lsr s (.ok (s.writeShift (lsrOf s.cfg.shiftWidth s.a)))

/-- R130, R132: ROL, the old C into the vacated bit. -/
def execRol (s : State) : Host.Outcome State Fault Refusal :=
  endInstr .rol s (.ok (s.writeShift (rolOf s.cfg.shiftWidth s.a s.c)))

/-- R131, R132: ROR, the old C into the vacated bit. -/
def execRor (s : State) : Host.Outcome State Fault Refusal :=
  endInstr .ror s (.ok (s.writeShift (rorOf s.cfg.shiftWidth s.a s.c)))

end Sys2Proof.Machine
end

