-- ==== Sys2Proof/Machine/Compare.lean ====
section
/-! DEFINITION. Compare instructions (42_compare.md R160 to R163). -/
namespace Sys2Proof.Machine

/-- R160: `C <- (A >=s M)` from the old A, then `A <- (A - M) & 0xFF`. -/
def execCmp (operand : Operand) (s : State) : Host.Outcome State Fault Refusal :=
  let m := s.memRead (ea operand)
  endInstr .cmp s (.ok ((s.setC (geSigned s.a m)).setA (cmpResult s.a m)))

/-- R161: `C <- (X >=s M)`; X and A are unchanged. -/
def execCpx (operand : Operand) (s : State) : Host.Outcome State Fault Refusal :=
  endInstr .cpx s (.ok (s.setC (geSigned s.x (s.memRead (ea operand)))))

/-- R162: `C <- (Y >=s M)`; Y and A are unchanged. -/
def execCpy (operand : Operand) (s : State) : Host.Outcome State Fault Refusal :=
  endInstr .cpy s (.ok (s.setC (geSigned s.y (s.memRead (ea operand)))))

end Sys2Proof.Machine
end

