-- ==== Sys2Proof/Machine/Control.lean ====
section
/-! DEFINITION. Control-transfer instructions (45_control.md R210 to R223). -/
namespace Sys2Proof.Machine

/-- R211: `PC <- zext_32(operand) - 1`. -/
def execJmp (operand : Operand) (s : State) : Host.Outcome State Fault Refusal :=
  endInstr .jmp s (.ok (s.branchIf true operand))

/-- R212: branch if `Z`. -/
def execBeq (operand : Operand) (s : State) : Host.Outcome State Fault Refusal :=
  endInstr .beq s (.ok (s.branchIf (zeroFlag s.a) operand))

/-- R213: branch if not `Z`. -/
def execBne (operand : Operand) (s : State) : Host.Outcome State Fault Refusal :=
  endInstr .bne s (.ok (s.branchIf (!zeroFlag s.a) operand))

/-- R214: branch if `N`. -/
def execBmi (operand : Operand) (s : State) : Host.Outcome State Fault Refusal :=
  endInstr .bmi s (.ok (s.branchIf (signFlag s.cfg.signBit s.a) operand))

/-- R215: branch if not `N`. -/
def execBpl (operand : Operand) (s : State) : Host.Outcome State Fault Refusal :=
  endInstr .bpl s (.ok (s.branchIf (!signFlag s.cfg.signBit s.a) operand))

/-- R216: branch if not `C`. -/
def execBcc (operand : Operand) (s : State) : Host.Outcome State Fault Refusal :=
  endInstr .bcc s (.ok (s.branchIf (!s.c) operand))

/-- R217: branch if `C`. -/
def execBcs (operand : Operand) (s : State) : Host.Outcome State Fault Refusal :=
  endInstr .bcs s (.ok (s.branchIf s.c operand))

/-- R218: branch if not `V`. -/
def execBvc (operand : Operand) (s : State) : Host.Outcome State Fault Refusal :=
  endInstr .bvc s (.ok (s.branchIf (!s.v) operand))

/-- R219: branch if `V`. -/
def execBvs (operand : Operand) (s : State) : Host.Outcome State Fault Refusal :=
  endInstr .bvs s (.ok (s.branchIf s.v operand))

/-- R220: the execute phase of LOOP: the top counted down; written back with a branch while it is not 0, else popped. -/
def State.loopPhase (s : State) (operand : Operand) : Except FaultKind State :=
  match s.top with
  | .error k => .error k
  | .ok t =>
    if t - 1 ≠ 0 then .ok ((s.replaceTop (t - 1)).branchIf true operand)
    else s.popInto fun u _ => u

/-- R220: LOOP. -/
def execLoop (operand : Operand) (s : State) : Host.Outcome State Fault Refusal :=
  endInstr .loop s (s.loopPhase operand)

/-- R221: `push(PC + 2)` from the JSR's own address, then the jump. -/
def execJsr (operand : Operand) (s : State) : Host.Outcome State Fault Refusal :=
  endInstr .jsr s ((s.push (s.pc + 2)).map fun t => t.branchIf true operand)

/-- R222: `PC <- pop()`; the increment follows when `RTS_INCREMENT = true` (R83). -/
def execRts (s : State) : Host.Outcome State Fault Refusal :=
  endInstr .rts s (s.popInto State.setPc)

end Sys2Proof.Machine
end

