-- ==== Sys2Proof/Machine/Halt.lean ====
section
/-! DEFINITION. HALT (47_halt_unknown.md R290). Unknown words are `State.unknownWord` of Ops.lean. -/
namespace Sys2Proof.Machine

/-- R290: `status <- Halted`; the PC is incremented only when `HALT_PC_ADVANCE = true`. -/
def State.halt (s : State) : State :=
  { s with status := .halted, pc := if s.cfg.haltPcAdvance then s.pc + 1 else s.pc }

/-- R290: HALT. -/
def execHalt (s : State) : Host.Outcome State Fault Refusal := .next s.halt

end Sys2Proof.Machine
end

