-- ==== Sys2Proof/Machine/IncDec.lean ====
section
/-! DEFINITION. Increment and decrement instructions (43_incdec.md R170 to R175). -/
namespace Sys2Proof.Machine

/-- One read and one write of the same cell (20_memory.md R65, R66). -/
def State.updateCell (s : State) (addr : Addr) (f : Word → Word) : State :=
  s.memWrite addr (f (s.memRead addr))

/-- R170: `MemWrite(ea, 1, (MemRead(ea, 1) + 1) & 0xFF)`. -/
def execInc (operand : Operand) (s : State) : Host.Outcome State Fault Refusal :=
  endInstr .inc s (.ok (s.updateCell (ea operand) fun w => lowByte (w + 1)))

/-- R171: `MemWrite(ea, 1, (MemRead(ea, 1) - 1) & 0xFF)`. -/
def execDec (operand : Operand) (s : State) : Host.Outcome State Fault Refusal :=
  endInstr .dec s (.ok (s.updateCell (ea operand) fun w => lowByte (w - 1)))

/-- R22: an index instruction on its register, or on the shared cell `INDEX_ALIAS_ADDR`; no masking in either. -/
def State.updateIndex (s : State) (onRegister : State) (f : Word → Word) : State :=
  match s.cfg.indexStorage with
  | .registers => onRegister
  | .sharedMemory => s.updateCell (aliasAddr s.cfg) f

/-- R172: INX. -/
def execInx (s : State) : Host.Outcome State Fault Refusal :=
  endInstr .inx s (.ok (s.updateIndex (s.setX (s.x + 1)) fun w => w + 1))

/-- R173: INY. -/
def execIny (s : State) : Host.Outcome State Fault Refusal :=
  endInstr .iny s (.ok (s.updateIndex (s.setY (s.y + 1)) fun w => w + 1))

/-- R174: DEX. -/
def execDex (s : State) : Host.Outcome State Fault Refusal :=
  endInstr .dex s (.ok (s.updateIndex (s.setX (s.x - 1)) fun w => w - 1))

/-- R175: DEY. -/
def execDey (s : State) : Host.Outcome State Fault Refusal :=
  endInstr .dey s (.ok (s.updateIndex (s.setY (s.y - 1)) fun w => w - 1))

end Sys2Proof.Machine
end

