-- ==== Sys2Proof/Machine/LoadStore.lean ====
section
/-! DEFINITION. Load and store instructions (40_load_store.md R100 to R105). -/
namespace Sys2Proof.Machine

/-- R100: `A <- MemRead(ea, 1)`. -/
def execLda (operand : Operand) (s : State) : Host.Outcome State Fault Refusal :=
  endInstr .lda s (.ok (s.setA (s.memRead (ea operand))))

/-- R101: `MemWrite(ea, 1, A)`. -/
def execSta (operand : Operand) (s : State) : Host.Outcome State Fault Refusal :=
  endInstr .sta s (.ok (s.memWrite (ea operand) s.a))

/-- R102: `X <- MemRead(ea, 1)`. -/
def execLdx (operand : Operand) (s : State) : Host.Outcome State Fault Refusal :=
  endInstr .ldx s (.ok (s.setX (s.memRead (ea operand))))

/-- R103: `Y <- MemRead(ea, 1)`. -/
def execLdy (operand : Operand) (s : State) : Host.Outcome State Fault Refusal :=
  endInstr .ldy s (.ok (s.setY (s.memRead (ea operand))))

/-- R104: `push(X)`; memory is not written. -/
def execStx (s : State) : Host.Outcome State Fault Refusal :=
  endInstr .stx s (s.push s.x)

/-- R105: `push(Y)`; memory is not written. -/
def execSty (s : State) : Host.Outcome State Fault Refusal :=
  endInstr .sty s (s.push s.y)

end Sys2Proof.Machine
end

