-- ==== Sys2Proof/Machine/Stack.lean ====
section
/-! DEFINITION. Stack instructions (44_stack.md R190 to R194); no flag is pushed or pulled. -/
namespace Sys2Proof.Machine

/-- R190: `push(A)`. -/
def execPha (s : State) : Host.Outcome State Fault Refusal :=
  endInstr .pha s (s.push s.a)

/-- R191: `A <- pop()`. -/
def execPla (s : State) : Host.Outcome State Fault Refusal :=
  endInstr .pla s (s.popInto State.setA)

/-- R192: `pop()`, the value not used. -/
def execDel (s : State) : Host.Outcome State Fault Refusal :=
  endInstr .del s (s.popInto fun t _ => t)

/-- R193: `push(A)`, as a stand-in for a status register. -/
def execPhp (s : State) : Host.Outcome State Fault Refusal :=
  endInstr .php s (s.push s.a)

/-- R194: `A <- pop()`, as a stand-in for a status register. -/
def execPlp (s : State) : Host.Outcome State Fault Refusal :=
  endInstr .plp s (s.popInto State.setA)

end Sys2Proof.Machine
end

