-- ==== Sys2Proof/Machine/TransferFlag.lean ====
section
/-! DEFINITION. Transfer, flag and no-effect instructions (46_transfer_flag.md R250 to R265). -/
namespace Sys2Proof.Machine

/-- R250: `X <- A`. -/
def execTax (s : State) : Host.Outcome State Fault Refusal :=
  endInstr .tax s (.ok (s.setX s.a))

/-- R251: `Y <- A`. -/
def execTay (s : State) : Host.Outcome State Fault Refusal :=
  endInstr .tay s (.ok (s.setY s.a))

/-- R252: `A <- X`. -/
def execTxa (s : State) : Host.Outcome State Fault Refusal :=
  endInstr .txa s (.ok (s.setA s.x))

/-- R253: `A <- Y`. -/
def execTya (s : State) : Host.Outcome State Fault Refusal :=
  endInstr .tya s (.ok (s.setA s.y))

/-- R254: `X <- size()` modulo 2^32. -/
def execTsx (s : State) : Host.Outcome State Fault Refusal :=
  endInstr .tsx s (.ok (s.setX (BitVec.ofNat 32 s.stackSize)))

/-- R255: `setSize(X)`. -/
def execTxs (s : State) : Host.Outcome State Fault Refusal :=
  endInstr .txs s (s.setSize s.x)

/-- R256: `C <- false`. -/
def execClc (s : State) : Host.Outcome State Fault Refusal :=
  endInstr .clc s (.ok (s.setC false))

/-- R257: `C <- true`. -/
def execSec (s : State) : Host.Outcome State Fault Refusal :=
  endInstr .sec s (.ok (s.setC true))

/-- R258: `V <- false`. -/
def execClv (s : State) : Host.Outcome State Fault Refusal :=
  endInstr .clv s (.ok (s.setV false))

/-- R259: no effect. -/
def execCld (s : State) : Host.Outcome State Fault Refusal := endInstr .cld s (.ok s)

/-- R260: no effect. -/
def execCli (s : State) : Host.Outcome State Fault Refusal := endInstr .cli s (.ok s)

/-- R261: no effect. -/
def execSed (s : State) : Host.Outcome State Fault Refusal := endInstr .sed s (.ok s)

/-- R262: no effect. -/
def execSei (s : State) : Host.Outcome State Fault Refusal := endInstr .sei s (.ok s)

/-- R263: no effect. -/
def execNop (s : State) : Host.Outcome State Fault Refusal := endInstr .nop s (.ok s)

/-- R264: no effect; the stack is not popped. -/
def execRti (s : State) : Host.Outcome State Fault Refusal := endInstr .rti s (.ok s)

/-- R265: no effect; memory is not read and no flag is written. -/
def execBit (s : State) : Host.Outcome State Fault Refusal := endInstr .bit s (.ok s)

end Sys2Proof.Machine
end

