-- ==== Sys2Proof/Machine/Dispatch.lean ====
section
/-! DEFINITION. One arm per instruction: the meaning it has. -/
namespace Sys2Proof.Machine

def exec (i : Instr) (s : State) : Host.Outcome State Fault Refusal :=
  match i with
  -- Halt
  | .halt => Sys2Proof.Machine.execHalt s
  -- Load and store
  | .lda operand => Sys2Proof.Machine.execLda operand s
  | .sta operand => Sys2Proof.Machine.execSta operand s
  | .ldx operand => Sys2Proof.Machine.execLdx operand s
  | .ldy operand => Sys2Proof.Machine.execLdy operand s
  | .stx => Sys2Proof.Machine.execStx s
  | .sty => Sys2Proof.Machine.execSty s
  -- Arithmetic, logic, shift
  | .add operand => Sys2Proof.Machine.execAdd operand s
  | .sub operand => Sys2Proof.Machine.execSub operand s
  | .adc operand => Sys2Proof.Machine.execAdc operand s
  | .sbc operand => Sys2Proof.Machine.execSbc operand s
  | .and operand => Sys2Proof.Machine.execAnd operand s
  | .ora operand => Sys2Proof.Machine.execOra operand s
  | .eor operand => Sys2Proof.Machine.execEor operand s
  | .asl => Sys2Proof.Machine.execAsl s
  | .lsr => Sys2Proof.Machine.execLsr s
  | .rol => Sys2Proof.Machine.execRol s
  | .ror => Sys2Proof.Machine.execRor s
  -- Compare
  | .cmp operand => Sys2Proof.Machine.execCmp operand s
  | .cpx operand => Sys2Proof.Machine.execCpx operand s
  | .cpy operand => Sys2Proof.Machine.execCpy operand s
  -- Increment and decrement
  | .inc operand => Sys2Proof.Machine.execInc operand s
  | .dec operand => Sys2Proof.Machine.execDec operand s
  | .inx => Sys2Proof.Machine.execInx s
  | .iny => Sys2Proof.Machine.execIny s
  | .dex => Sys2Proof.Machine.execDex s
  | .dey => Sys2Proof.Machine.execDey s
  -- Stack
  | .pha => Sys2Proof.Machine.execPha s
  | .pla => Sys2Proof.Machine.execPla s
  | .del => Sys2Proof.Machine.execDel s
  | .php => Sys2Proof.Machine.execPhp s
  | .plp => Sys2Proof.Machine.execPlp s
  -- Control transfer
  | .jmp operand => Sys2Proof.Machine.execJmp operand s
  | .beq operand => Sys2Proof.Machine.execBeq operand s
  | .bne operand => Sys2Proof.Machine.execBne operand s
  | .bmi operand => Sys2Proof.Machine.execBmi operand s
  | .bpl operand => Sys2Proof.Machine.execBpl operand s
  | .bcc operand => Sys2Proof.Machine.execBcc operand s
  | .bcs operand => Sys2Proof.Machine.execBcs operand s
  | .bvc operand => Sys2Proof.Machine.execBvc operand s
  | .bvs operand => Sys2Proof.Machine.execBvs operand s
  | .loop operand => Sys2Proof.Machine.execLoop operand s
  | .jsr operand => Sys2Proof.Machine.execJsr operand s
  | .rts => Sys2Proof.Machine.execRts s
  -- Transfer, flag, no effect
  | .tax => Sys2Proof.Machine.execTax s
  | .tay => Sys2Proof.Machine.execTay s
  | .txa => Sys2Proof.Machine.execTxa s
  | .tya => Sys2Proof.Machine.execTya s
  | .tsx => Sys2Proof.Machine.execTsx s
  | .txs => Sys2Proof.Machine.execTxs s
  | .clc => Sys2Proof.Machine.execClc s
  | .sec => Sys2Proof.Machine.execSec s
  | .clv => Sys2Proof.Machine.execClv s
  | .cld => Sys2Proof.Machine.execCld s
  | .cli => Sys2Proof.Machine.execCli s
  | .sed => Sys2Proof.Machine.execSed s
  | .sei => Sys2Proof.Machine.execSei s
  | .nop => Sys2Proof.Machine.execNop s
  | .rti => Sys2Proof.Machine.execRti s
  | .bit => Sys2Proof.Machine.execBit s

end Sys2Proof.Machine
end

