-- ==== Sys2Proof/Machine/Step.lean ====
section
/-! DEFINITION. The step cycle (30_encoding.md R82), and the placing of one instruction word for the next step. -/
namespace Sys2Proof.Machine

/-- R82: one step of a running core: the PC check, fetch, decode, then the instruction (`exec`: its execute phase with the fault taken or the PC advance, HALT among them) or an unknown word. -/
def stepRunning (s : State) : Host.Outcome State Fault Refusal :=
  if pcInRange s.cfg s.pc then
    match decode s.cfg s.fetchWord with
    | .ok i => exec i s
    | .error _ => .next (s.unknownWord (opcField s.fetchWord))
  else .next (s.takeFault .outOfRangeProgramCounter none)

/-- R82: one step. A terminal status absorbs it (60_exceptions.md R316). Parameters outside R7's legal values are no machine of the spec (log 4). -/
def step (s : State) : Host.Outcome State Fault Refusal :=
  if s.cfg.legal then
    match s.status with
    | .running => stepRunning s
    | .halted => .next s
    | .faulted => .next s
  else .fault .illegalParameters

/-- `s` with the table's instruction word stored where the next step fetches: at the PC. Nothing else is needed, since the machine fetches at its PC (log 10). -/
def State.withFetchWord (s : State) (nbits w : Nat) : State := s.placeWord (tableWord nbits w)

end Sys2Proof.Machine
end

