-- ==== Sys2Proof/Machine/ControlWord.lean ====
section
/-! DEFINITION. The decoder's outputs (30_encoding.md R93): one control word per operation, and the datapath it drives: stack controller, ALU and writeback mux, flag register, PC logic (00_scope.md R1). R93 calls the table a reading of the instruction rules; the meanings of exec are written from those rules, and Obligations.lean states that the datapath agrees with them. -/
namespace Sys2Proof.Machine

/-- R93, columns `rd` and `wr`; `shared` is active only when `INDEX_STORAGE = shared_memory`. -/
inductive PortUse where
  | no | yes | shared
  deriving DecidableEq, Repr

/-- R93, column `alu`. -/
inductive AluFn where
  | none | passM | passA | passX | passY | passPopped
  | addFull | subFull | addCarry | subBorrow | and | or | xor
  | shiftLeft | shiftRight | rotateLeft | rotateRight
  | compareA | compareX | compareY
  | incByte | decByte | incX | incY | decX | decY
  | topMinusOne | pcPlusTwo | size
  deriving DecidableEq, Repr

/-- R93, column `wb`; `xShared` and `yShared` write memory when `INDEX_STORAGE = shared_memory`. `pc` is RTS's, made by the PC logic; `stackTop` is LOOP's, made by the stack controller. -/
inductive Writeback where
  | none | a | x | y | mem | xShared | yShared | stackTop | pc | status
  deriving DecidableEq, Repr

/-- R93, columns `C` and `V`; `underRule` writes only when `V_RULE = adc_sbc_bit7`. -/
inductive FlagUse where
  | no | yes | zero | one | underRule
  deriving DecidableEq, Repr

/-- R93, column `stk`; `countDown` is LOOP's top/replaceTop or pop. -/
inductive StackUse where
  | none | push | pop | countDown | size | setSize
  deriving DecidableEq, Repr

/-- The condition of a branch (R211 to R221). -/
inductive BranchCond where
  | always | zero | notZero | negative | notNegative
  | carryClear | carrySet | overflowClear | overflowSet | countNotZero
  deriving DecidableEq, Repr

/-- R93, column `pc`: the PC operation before the increment. -/
inductive PcUse where
  | seq | branch (cond : BranchCond) | popped | none
  deriving DecidableEq, Repr

/-- One control word. -/
structure ControlWord where
  rd  : PortUse
  wr  : PortUse
  alu : AluFn
  wb  : Writeback
  c   : FlagUse
  v   : FlagUse
  stk : StackUse
  pc  : PcUse
  deriving DecidableEq, Repr

/-- The table of R93. -/
def controlWord : Op → ControlWord
  | .halt => ⟨.no, .no, .none, .status, .no, .no, .none, .none⟩
  | .lda => ⟨.yes, .no, .passM, .a, .no, .no, .none, .seq⟩
  | .sta => ⟨.no, .yes, .passA, .mem, .no, .no, .none, .seq⟩
  | .ldx => ⟨.yes, .no, .passM, .x, .no, .no, .none, .seq⟩
  | .ldy => ⟨.yes, .no, .passM, .y, .no, .no, .none, .seq⟩
  | .stx => ⟨.no, .no, .passX, .none, .no, .no, .push, .seq⟩
  | .sty => ⟨.no, .no, .passY, .none, .no, .no, .push, .seq⟩
  | .add => ⟨.yes, .no, .addFull, .a, .no, .no, .none, .seq⟩
  | .sub => ⟨.yes, .no, .subFull, .a, .no, .no, .none, .seq⟩
  | .adc => ⟨.yes, .no, .addCarry, .a, .yes, .underRule, .none, .seq⟩
  | .sbc => ⟨.yes, .no, .subBorrow, .a, .yes, .underRule, .none, .seq⟩
  | .and => ⟨.yes, .no, .and, .a, .no, .no, .none, .seq⟩
  | .ora => ⟨.yes, .no, .or, .a, .no, .no, .none, .seq⟩
  | .eor => ⟨.yes, .no, .xor, .a, .no, .no, .none, .seq⟩
  | .asl => ⟨.no, .no, .shiftLeft, .a, .yes, .no, .none, .seq⟩
  | .lsr => ⟨.no, .no, .shiftRight, .a, .yes, .no, .none, .seq⟩
  | .rol => ⟨.no, .no, .rotateLeft, .a, .yes, .no, .none, .seq⟩
  | .ror => ⟨.no, .no, .rotateRight, .a, .yes, .no, .none, .seq⟩
  | .cmp => ⟨.yes, .no, .compareA, .a, .yes, .no, .none, .seq⟩
  | .cpx => ⟨.yes, .no, .compareX, .none, .yes, .no, .none, .seq⟩
  | .cpy => ⟨.yes, .no, .compareY, .none, .yes, .no, .none, .seq⟩
  | .inc => ⟨.yes, .yes, .incByte, .mem, .no, .no, .none, .seq⟩
  | .dec => ⟨.yes, .yes, .decByte, .mem, .no, .no, .none, .seq⟩
  | .inx => ⟨.shared, .shared, .incX, .xShared, .no, .no, .none, .seq⟩
  | .iny => ⟨.shared, .shared, .incY, .yShared, .no, .no, .none, .seq⟩
  | .dex => ⟨.shared, .shared, .decX, .xShared, .no, .no, .none, .seq⟩
  | .dey => ⟨.shared, .shared, .decY, .yShared, .no, .no, .none, .seq⟩
  | .pha => ⟨.no, .no, .passA, .none, .no, .no, .push, .seq⟩
  | .pla => ⟨.no, .no, .passPopped, .a, .no, .no, .pop, .seq⟩
  | .del => ⟨.no, .no, .none, .none, .no, .no, .pop, .seq⟩
  | .php => ⟨.no, .no, .passA, .none, .no, .no, .push, .seq⟩
  | .plp => ⟨.no, .no, .passPopped, .a, .no, .no, .pop, .seq⟩
  | .jmp => ⟨.no, .no, .none, .none, .no, .no, .none, .branch .always⟩
  | .beq => ⟨.no, .no, .none, .none, .no, .no, .none, .branch .zero⟩
  | .bne => ⟨.no, .no, .none, .none, .no, .no, .none, .branch .notZero⟩
  | .bmi => ⟨.no, .no, .none, .none, .no, .no, .none, .branch .negative⟩
  | .bpl => ⟨.no, .no, .none, .none, .no, .no, .none, .branch .notNegative⟩
  | .bcc => ⟨.no, .no, .none, .none, .no, .no, .none, .branch .carryClear⟩
  | .bcs => ⟨.no, .no, .none, .none, .no, .no, .none, .branch .carrySet⟩
  | .bvc => ⟨.no, .no, .none, .none, .no, .no, .none, .branch .overflowClear⟩
  | .bvs => ⟨.no, .no, .none, .none, .no, .no, .none, .branch .overflowSet⟩
  | .loop => ⟨.no, .no, .topMinusOne, .stackTop, .no, .no, .countDown, .branch .countNotZero⟩
  | .jsr => ⟨.no, .no, .pcPlusTwo, .none, .no, .no, .push, .branch .always⟩
  | .rts => ⟨.no, .no, .passPopped, .pc, .no, .no, .pop, .popped⟩
  | .tax => ⟨.no, .no, .passA, .x, .no, .no, .none, .seq⟩
  | .tay => ⟨.no, .no, .passA, .y, .no, .no, .none, .seq⟩
  | .txa => ⟨.no, .no, .passX, .a, .no, .no, .none, .seq⟩
  | .tya => ⟨.no, .no, .passY, .a, .no, .no, .none, .seq⟩
  | .tsx => ⟨.no, .no, .size, .x, .no, .no, .size, .seq⟩
  | .txs => ⟨.no, .no, .none, .none, .no, .no, .setSize, .seq⟩
  | .clc => ⟨.no, .no, .none, .none, .zero, .no, .none, .seq⟩
  | .sec => ⟨.no, .no, .none, .none, .one, .no, .none, .seq⟩
  | .clv => ⟨.no, .no, .none, .none, .no, .zero, .none, .seq⟩
  | .cld => ⟨.no, .no, .none, .none, .no, .no, .none, .seq⟩
  | .cli => ⟨.no, .no, .none, .none, .no, .no, .none, .seq⟩
  | .sed => ⟨.no, .no, .none, .none, .no, .no, .none, .seq⟩
  | .sei => ⟨.no, .no, .none, .none, .no, .no, .none, .seq⟩
  | .nop => ⟨.no, .no, .none, .none, .no, .no, .none, .seq⟩
  | .rti => ⟨.no, .no, .none, .none, .no, .no, .none, .seq⟩
  | .bit => ⟨.no, .no, .none, .none, .no, .no, .none, .seq⟩

/-- Whether a port is used under the storage of the index registers. -/
def PortUse.active (u : PortUse) (storage : IndexStorage) : Bool :=
  match u, storage with
  | .no, _ => false
  | .yes, _ => true
  | .shared, .sharedMemory => true
  | .shared, .registers => false

/-- The data address of a port: `ea`, or `INDEX_ALIAS_ADDR` for the shared forms (R63). -/
def PortUse.addr (u : PortUse) (operand : Operand) (cfg : Config) : Addr :=
  match u with
  | .shared => aliasAddr cfg
  | _ => ea operand

/-- The ALU's outputs. -/
structure AluOut where
  value    : Word
  carry    : Bool
  overflow : Bool
  deriving DecidableEq, Repr

/-- An index register, or the shared cell in its place. -/
def indexInput (s : State) (reg m : Word) : Word :=
  match s.cfg.indexStorage with
  | .registers => reg
  | .sharedMemory => m

/-- The ALU, from the registers of `s`, the Word `m` read from memory and the Word `top` from the stack controller. An output the control word does not use is 0 or unchanged. -/
def aluOut (fn : AluFn) (s : State) (m top : Word) : AluOut :=
  let plain (w : Word) : AluOut := ⟨w, s.c, s.v⟩
  let shift (r : ShiftResult) : AluOut := ⟨r.value, r.carry, s.v⟩
  match fn with
  | .none => plain 0
  | .passM => plain m
  | .passA => plain s.a
  | .passX => plain s.x
  | .passY => plain s.y
  | .passPopped => plain top
  | .addFull => plain (s.a + m)
  | .subFull => plain (s.a - m)
  | .addCarry => let r := adcSum s.a m s.c; ⟨lowByte r, adcCarry r, adcOverflow s.a m r⟩
  | .subBorrow => let r := sbcDifference s.a m s.c; ⟨lowByte r, sbcCarry r, sbcOverflow s.a m r⟩
  | .and => plain (s.a &&& m)
  | .or => plain (s.a ||| m)
  | .xor => plain (s.a ^^^ m)
  | .shiftLeft => shift (aslOf s.cfg.shiftWidth s.a)
  | .shiftRight => shift (lsrOf s.cfg.shiftWidth s.a)
  | .rotateLeft => shift (rolOf s.cfg.shiftWidth s.a s.c)
  | .rotateRight => shift (rorOf s.cfg.shiftWidth s.a s.c)
  | .compareA => ⟨cmpResult s.a m, geSigned s.a m, s.v⟩
  | .compareX => ⟨0, geSigned s.x m, s.v⟩
  | .compareY => ⟨0, geSigned s.y m, s.v⟩
  | .incByte => plain (lowByte (m + 1))
  | .decByte => plain (lowByte (m - 1))
  | .incX => plain (indexInput s s.x m + 1)
  | .incY => plain (indexInput s s.y m + 1)
  | .decX => plain (indexInput s s.x m - 1)
  | .decY => plain (indexInput s s.y m - 1)
  | .topMinusOne => plain (top - 1)
  | .pcPlusTwo => plain (s.pc + 2)
  | .size => plain (BitVec.ofNat 32 s.stackSize)

/-- The stack controller's output Word: the top entry for a pop or a count, else 0. -/
def stackOut (u : StackUse) (s : State) : Except FaultKind Word :=
  match u with
  | .pop => s.top
  | .countDown => s.top
  | _ => .ok 0

/-- The stack controller's new contents, given the ALU's value. -/
def stackStage (u : StackUse) (value : Word) (s : State) : Except FaultKind State :=
  match u with
  | .none => .ok s
  | .size => .ok s
  | .push => s.push value
  | .pop => s.popInto fun t _ => t
  | .countDown => if value = 0 then s.popInto fun t _ => t else .ok (s.replaceTop value)
  | .setSize => s.setSize s.x

/-- The writeback mux. -/
def writebackStage (wb : Writeback) (wr : PortUse) (operand : Operand) (value : Word) (s : State) : State :=
  match wb with
  | .none => s
  | .stackTop => s
  | .pc => s
  | .status => s
  | .a => s.setA value
  | .x => s.setX value
  | .y => s.setY value
  | .mem => s.memWrite (wr.addr operand s.cfg) value
  | .xShared => s.updateIndex (s.setX value) fun _ => value
  | .yShared => s.updateIndex (s.setY value) fun _ => value

/-- A flag's new value. -/
def FlagUse.next (u : FlagUse) (rule : VRule) (new old : Bool) : Bool :=
  match u with
  | .no => old
  | .yes => new
  | .zero => false
  | .one => true
  | .underRule => overflowUnder rule new old

/-- A branch condition, on the registers before the instruction and the ALU's value. -/
def BranchCond.holds (cond : BranchCond) (s : State) (value : Word) : Bool :=
  match cond with
  | .always => true
  | .zero => zeroFlag s.a
  | .notZero => !zeroFlag s.a
  | .negative => signFlag s.cfg.signBit s.a
  | .notNegative => !signFlag s.cfg.signBit s.a
  | .carryClear => !s.c
  | .carrySet => s.c
  | .overflowClear => !s.v
  | .overflowSet => s.v
  | .countNotZero => value != 0

/-- The PC logic before the increment. -/
def pcStage (u : PcUse) (operand : Operand) (taken : Bool) (top : Word) (s : State) : State :=
  match u with
  | .seq => s
  | .none => s
  | .popped => s.setPc top
  | .branch _ => s.branchIf taken operand

/-- Whether the PC logic's branch is taken. -/
def PcUse.taken (u : PcUse) (s : State) (value : Word) : Bool :=
  match u with
  | .branch cond => cond.holds s value
  | _ => false

/-- The execute phase as the datapath runs a control word. -/
def datapath (cw : ControlWord) (operand : Operand) (s : State) : Except FaultKind State :=
  match stackOut cw.stk s with
  | .error k => .error k
  | .ok top =>
    let out := aluOut cw.alu s (s.memRead (cw.rd.addr operand s.cfg)) top
    match stackStage cw.stk out.value s with
    | .error k => .error k
    | .ok t =>
      let flagged := (t.setC (cw.c.next s.cfg.vRule out.carry s.c)).setV (cw.v.next s.cfg.vRule out.overflow s.v)
      .ok (pcStage cw.pc operand (cw.pc.taken s out.value) top
        (writebackStage cw.wb cw.wr operand out.value flagged))

end Sys2Proof.Machine
end

