-- ==== Sys2Proof/Machine/HostPort.lean ====
section
/-! DEFINITION. The block's interfaces (10_state.md R49 to R51): the step report, the memory port's accesses, the host's reset, program load, run-to-halt and memory access, and the read-only snapshot. -/
namespace Sys2Proof.Machine

/-- The labels 1 to 6 of R300 for a model that needs numbers. -/
def FaultKind.code : FaultKind → Nat
  | .stackUnderflow => 1
  | .outOfRangeProgramCounter => 2
  | .unknownOpcode => 3
  | .divisionByZero => 4
  | .stackSizeRange => 5
  | .stackOverflow => 6

/-! ### The step report (R51) -/

/-- R51: what a step returns to the host. -/
inductive Report where
  | stepped
  | unknownReported (opc : Opcode) (pc : Word)
  | haltedNow
  | faultedNow (record : FaultRecord)
  | idle
  deriving DecidableEq, Repr

/-- The report of the step from `s` to `t`: the report is no state (R48), so it is read from the two (log 7). -/
def reportOf (s t : State) : Report :=
  match s.status with
  | .halted => .idle
  | .faulted => .idle
  | .running =>
    match t.fault with
    | some record => .faultedNow record
    | none =>
      if t.status = .halted then .haltedNow
      else if t.unkCount = s.unkCount then .stepped
      else .unknownReported (opcField s.fetchWord) s.pc

/-- The report a step of `s` returns; none if the parameters are illegal. -/
def stepReport (s : State) : Option Report :=
  match step s with
  | .next t => some (reportOf s t)
  | _ => none

/-! ### The memory port (R49, R50, 20_memory.md R65) -/

/-- One use of the memory port. -/
inductive Access where
  | fetch (addr : Addr)
  | read (addr : Addr)
  | write (addr : Addr) (w : Word)
  deriving DecidableEq, Repr

/-- The data accesses of an instruction, in R65's order: at most one read, then at most one write of the ALU's value (no instruction that writes memory uses the stack). -/
def dataAccesses (i : Instr) (s : State) : List Access :=
  let cw := controlWord i.op
  let addr := cw.rd.addr i.operand s.cfg
  let reads := if cw.rd.active s.cfg.indexStorage then [Access.read addr] else []
  let writes :=
    if cw.wr.active s.cfg.indexStorage then
      [Access.write (cw.wr.addr i.operand s.cfg) (aluOut cw.alu s (s.memRead addr) 0).value]
    else []
  reads ++ writes

/-- The accesses of one step: none in a terminal status or when the PC check fails; else the fetch and the instruction's. -/
def stepAccesses (s : State) : List Access :=
  match s.status with
  | .halted => []
  | .faulted => []
  | .running =>
    if pcInRange s.cfg s.pc then
      .fetch (fetchAddr s.pc) ::
        match decode s.cfg s.fetchWord with
        | .ok i => dataAccesses i s
        | .error _ => []
    else []

/-- What an access leaves in memory. -/
def Access.apply (m : Memory) : Access → Memory
  | .fetch _ => m
  | .read _ => m
  | .write addr w => m.write addr.toNat w

/-- The address an access reads, if it reads. -/
def Access.readAddr : Access → Option Addr
  | .fetch addr => some addr
  | .read addr => some addr
  | .write _ _ => none

/-! ### Program load (70_reset_and_hazards.md R331) -/

/-- The image's Words at consecutive addresses from `n`. -/
def storeImage : List Word → Nat → Memory → Memory
  | [], _, m => m
  | w :: ws, n, m => storeImage ws (n + 1) (m.write (BitVec.ofNat 31 n).toNat w)

/-- The overlay's Words, each at its address. -/
def storeOverlay : List (Addr × Word) → Memory → Memory
  | [], m => m
  | (addr, w) :: rest, m => storeOverlay rest (m.write addr.toNat w)

/-- R331: a full reset with memory cleared, then the image at 0 up, then the overlay, which wins at a shared address. -/
def State.load (s : State) (image : List Word) (overlay : List (Addr × Word)) : State :=
  { s.coreReset with mem := storeOverlay overlay (storeImage image 0 []) }

/-! ### The host between steps (R49, R50, R314, R317) -/

/-- `getMemory(address)`. -/
def State.getMemory (s : State) (addr : Addr) : Word := s.memRead addr

/-- `setMemory(address, value)`. -/
def State.setMemory (s : State) (addr : Addr) (w : Word) : State := s.memWrite addr w

/-- R49, R317: `step` repeated while the status is Running, at most `ceiling` times. -/
def runToHalt : Nat → State → Host.Outcome State Fault Refusal
  | 0, s => .next s
  | ceiling + 1, s =>
    match s.status with
    | .running =>
      match step s with
      | .next t => runToHalt ceiling t
      | .fault r => .fault r
      | .refused r => .refused r
    | .halted => .next s
    | .faulted => .next s

/-- R51: the source's snapshot, a read-only projection. -/
structure Snapshot where
  stack : List Word
  c     : Bool
  v     : Bool
  pc    : Word
  deriving DecidableEq, Repr

/-- The snapshot of a state. -/
def State.snapshot (s : State) : Snapshot := { stack := s.stack, c := s.c, v := s.v, pc := s.pc }

end Sys2Proof.Machine
end

