-- ==== Sys2Proof/Safety.lean ====
section
/-! DEFINITION. What holds of every state a run reaches, in the terms the statements use. -/
namespace Sys2Proof.Machine

/-- A terminal status (10_state.md R34). -/
def State.terminal (s : State) : Prop := s.status ≠ .running

/-- The fault record agrees with the state that holds it (R35, R300, R304, R307). -/
structure FaultRecord.Fits (r : FaultRecord) (s : State) : Prop where
  /-- The PC stays at the faulting instruction (R304). -/
  pc : r.pc = s.pc
  /-- Only the PC check faults before fetch (R35, R300). -/
  opcode : r.opcode = none ↔ r.kind = .outOfRangeProgramCounter
  /-- DivisionByZero is never raised (R307). -/
  division : r.kind ≠ .divisionByZero
  /-- UnknownOpcode is a fault only in strict mode (R300). -/
  unknown : r.kind = .unknownOpcode → s.cfg.unknownOpcodeMode = .strict
  /-- StackOverflow needs a finite capacity (R305). -/
  overflow : r.kind = .stackOverflow → s.cfg.stackCapacity ≠ none

/-- The invariant of the machine. -/
structure State.Inv (s : State) : Prop where
  /-- The parameters are legal (00_scope.md R7). -/
  parameters : s.cfg.legal = true
  /-- The memory is in canonical form on the port's addresses (20_memory.md R60). -/
  memory : s.mem.wf
  /-- There is a fault record exactly when the status is Faulted (R35). -/
  record : s.status = .faulted ↔ s.fault.isSome
  /-- The record fits the state. -/
  fits : ∀ r, s.fault = some r → r.Fits s
  /-- A finite stack is never deeper than its capacity (R37, R40). -/
  depth : ∀ n, s.cfg.stackCapacity = some n → s.stack.length ≤ n
  /-- With `V_RULE = never`, V is always false (45_control.md R218). -/
  overflowNever : s.cfg.vRule = .never → s.v = false
  /-- The counter counts in lenient mode only (R36, R293). -/
  count : s.cfg.unknownOpcodeMode = .strict → s.unkCount = 0

/-- Two states equal but for the contents of memory. -/
def State.sameCore (s t : State) : Prop := { s with mem := t.mem } = t

/-- The opcode table's row of an operation: its number in the reference map (R86, decision D1), its operand class (R81) and its mnemonics (R85, decision D2). -/
def ListedAs (op : Op) (number : Opcode) (cls : OperandClass) (names : List String) : Prop :=
  referenceOpcode op = number ∧ op.operandClass = cls ∧ op.mnemonics = names

/-- The state a fatal fault of kind `k` leaves (R304), the opcode being the operation's number. -/
def faultedBy (s : State) (k : FaultKind) (op : Op) : State :=
  { s with status := .faulted, fault := some { kind := k, opcode := some (s.cfg.opcodeMap.number op), pc := s.pc } }

end Sys2Proof.Machine
end

