-- ==== Sys2Proof/Certificates/Slice0/Obligations.lean ====
section
/-! DEFINITION. The statements for the provers. Each docstring names the rules of spec/ it rests on; a rule that the spec marks as its own decision (D<n> of 92_eei_decisions.md), as derived, or as general knowledge (K<n>) is named with that mark. The PC increment after an instruction that does not write the PC is the source's own ("if the opcode did not itself set `pc` ... increment", quoted by D6; R24); that it follows a taken branch and RTS too is decision D6 (R83). The opcode numbers that `ListedAs` names are the reference map of R86, decision D1, which each instruction's rule repeats. -/
open Sys2Proof Sys2Proof.Machine

/-! ### Encoding and decoding -/

/-- Sanity under the default parameters (R7; log 9, a DESIGN CHOICE): words written out from R80 and R86 (numbers: decision D1) decode to their instructions, the operand of a class I word ignored (R89, decision D20); a word with an unused number (R88), or with bits 31:24 set under the default `HIGH_BYTE_POLICY = unknown` (R84, decision D3), is Unknown; and the assembler makes the words of R91 and R92 (decisions D2, D30), aliases (R85) and a too-wide operand included. -/
def Obligations.WrittenWordsDecodeAndAssemble : Prop :=
  decode Config.reference 0x00000000 = .ok .halt ∧
  decode Config.reference 0x0001000A = .ok (.lda 10) ∧
  decode Config.reference 0x00070014 = .ok (.add 20) ∧
  decode Config.reference 0x00130009 = .ok (.cpx 9) ∧
  decode Config.reference 0x00150004 = .ok (.inc 4) ∧
  decode Config.reference 0x001C0000 = .ok .pla ∧
  decode Config.reference 0x00201234 = .ok (.jmp 0x1234) ∧
  decode Config.reference 0x0039FFFF = .ok .nop ∧
  decode Config.reference 0x003C0000 = .error .noOperation ∧
  decode Config.reference 0x01010000 = .error .highByte ∧
  assembleItem Config.reference "LDA" (some 0x12345) = some 0x00012345 ∧
  assembleProgram Config.reference [("LOAD", some 10), ("ADD", some 20), ("STORE", some 0), ("HALT", none)] =
    some [0x0001000A, 0x00070014, 0x00020000, 0x00000000]

/-- R80, R84, R87, R91 (decisions D1, D3): under every legal setting of the parameters, every `OPCODE_MAP` included, an encoded instruction decodes to itself, whatever its operand. -/
def Obligations.DecodeOfEncodeIsTheInstruction : Prop :=
  ∀ cfg : Config, cfg.legal = true → ∀ i : Instr, decode cfg (encode cfg i) = .ok i

/-- R80, R81, R89, R91 (decisions D3, D20): a word that decodes differs from its instruction's encoding only in bits the decoder ignores: bits 31:24 under `HIGH_BYTE_POLICY = ignore`, and the operand of a class I instruction; and changing a class I word's operand leaves the instruction as it is. -/
def Obligations.DecodedWordIsItsEncodingButForIgnoredBits : Prop :=
  ∀ (cfg : Config) (w : Word) (i : Instr), cfg.legal = true → decode cfg w = .ok i →
    hiField (encode cfg i) = 0 ∧ opcField (encode cfg i) = opcField w ∧
    (i.op.operandClass ≠ .implied → operandField (encode cfg i) = operandField w) ∧
    (i.op.operandClass ≠ .implied → cfg.highBytePolicy = .unknown → encode cfg i = w) ∧
    (i.op.operandClass = .implied →
      ∀ w' : Word, hiField w' = hiField w → opcField w' = opcField w → decode cfg w' = .ok i)

/-- R84, R88, R291 (decisions D1, D3): decode rejects exactly the words with bits 31:24 set under `HIGH_BYTE_POLICY = unknown`, and those whose opcode field no operation has. -/
def Obligations.DecodeRejectsExactlyTheUnknownWords : Prop :=
  ∀ (cfg : Config) (w : Word),
    (decode cfg w = .error .highByte ↔ hiField w ≠ 0 ∧ cfg.highBytePolicy = .unknown) ∧
    (decode cfg w = .error .noOperation ↔
      ¬ (hiField w ≠ 0 ∧ cfg.highBytePolicy = .unknown) ∧ ∀ e ∈ cfg.opcodeMap, e.2 ≠ opcField w) ∧
    ((∃ i, decode cfg w = .ok i) ↔
      (hiField w = 0 ∨ cfg.highBytePolicy = .ignore) ∧ ∃ e ∈ cfg.opcodeMap, e.2 = opcField w)

/-! ### The step cycle -/

/-- R82 (decisions D6, D8, D21, D22): a running core whose PC passes the PC check runs the instruction its word at the PC decodes to. `exec` holds the whole of it: the execute phase, then the fault or the PC advance. -/
def Obligations.StepRunsTheDecodedInstruction : Prop :=
  ∀ (s : State) (i : Instr), s.cfg.legal = true → s.status = .running →
    0 ≤ s.pc.toInt → s.pc.toInt < s.cfg.pcLimit → decode s.cfg (s.mem.read s.pc.toNat) = .ok i →
    step s = exec i s

/-- R302, R82 (decision D8): the PC check before fetch. -/
def Obligations.StepFaultsWhenThePcIsOutOfRange : Prop :=
  ∀ s : State, s.cfg.legal = true → s.status = .running → (s.pc.toInt < 0 ∨ s.cfg.pcLimit ≤ s.pc.toInt) →
    step s = .next { s with
      status := .faulted, fault := some { kind := .outOfRangeProgramCounter, opcode := none, pc := s.pc } }

/-- R292, R293 (decisions D9, D21, D27): a word that decodes as Unknown is counted and skipped in lenient mode, and faults in strict mode. -/
def Obligations.UnknownWordsAreSkippedOrFault : Prop :=
  ∀ (s : State) (u : Unknown), s.cfg.legal = true → s.status = .running →
    0 ≤ s.pc.toInt → s.pc.toInt < s.cfg.pcLimit → decode s.cfg (s.mem.read s.pc.toNat) = .error u →
    (s.cfg.unknownOpcodeMode = .lenient → step s = .next { s with unkCount := s.unkCount + 1, pc := s.pc + 1 }) ∧
    (s.cfg.unknownOpcodeMode = .strict → step s = .next { s with
      status := .faulted
      fault := some { kind := .unknownOpcode, opcode := some (opcField (s.mem.read s.pc.toNat)), pc := s.pc } })

/-- R316, R51 (decision D22): a step in a terminal status changes nothing, makes no fetch and reports Idle. -/
def Obligations.TerminalStatesAbsorbEveryStep : Prop :=
  ∀ s : State, s.cfg.legal = true → s.terminal →
    step s = .next s ∧ stepAccesses s = [] ∧ stepReport s = some .idle

/-- R304, R35, R308 (decision D21): a step that ends in Faulted changes nothing but the status and the fault record, which holds the PC of the step, and the opcode field of the word at the PC unless the PC check failed. -/
def Obligations.FaultsArePrecise : Prop :=
  ∀ s t : State, s.cfg.legal = true → s.status = .running → step s = .next t → t.status = .faulted →
    ∃ k opc, t = { s with status := .faulted, fault := some { kind := k, opcode := opc, pc := s.pc } } ∧
      ((opc = none ∧ k = .outOfRangeProgramCounter ∧ (s.pc.toInt < 0 ∨ s.cfg.pcLimit ≤ s.pc.toInt)) ∨
       (opc = some (opcField (s.mem.read s.pc.toNat)) ∧ k ≠ .outOfRangeProgramCounter ∧
        0 ≤ s.pc.toInt ∧ s.pc.toInt < s.cfg.pcLimit))

/-- R82 with log 4 (the model's choice for parameters outside R7's legal values): a step of a machine with legal parameters always answers a next state; any other machine stops. -/
def Obligations.EveryStepAnswersANextState : Prop :=
  ∀ s : State, (s.cfg.legal = true → ∃ t, step s = .next t) ∧
    (s.cfg.legal = false → step s = .fault .illegalParameters)

/-- R51 (decisions D25, D27): the report of a step, for a running core that holds no fault record (R35). -/
def Obligations.StepReportsWhatItDid : Prop :=
  ∀ s t : State, s.cfg.legal = true → s.status = .running → s.fault = none → step s = .next t →
    (t.status = .halted → stepReport s = some .haltedNow) ∧
    (t.status = .faulted → ∃ r, t.fault = some r ∧ stepReport s = some (.faultedNow r)) ∧
    (t.status = .running → ∀ i, decode s.cfg (s.mem.read s.pc.toNat) = .ok i → stepReport s = some .stepped) ∧
    (t.status = .running → ∀ u, decode s.cfg (s.mem.read s.pc.toNat) = .error u →
      stepReport s = some (.unknownReported (opcField (s.mem.read s.pc.toNat)) s.pc))

/-! ### Reset and program load -/

/-- R52, R330, R332 (decision D28): the values after reset, and the host's reset from any state. The default parameters are R7's (log 9). -/
def Obligations.ResetGivesTheResetValues : Prop :=
  State.reset = {
    a := 0, x := 0, y := 0, pc := 0, c := false, v := false
    stack := [], status := .running, fault := none, unkCount := 0
    mem := [], cfg := Config.reference } ∧
  (∀ addr, State.reset.mem.read addr = 0) ∧
  ∀ s : State, s.coreReset = { s with
    a := 0, x := 0, y := 0, pc := 0, c := false, v := false
    stack := [], status := .running, fault := none, unkCount := 0 }

/-- R331, R330 (decision D28), R60 (decision D23): program load is a full reset with memory cleared (status Running, no fault and a zero count after it are D28), then the image at addresses 0 up, then the overlay, which wins at a shared address. That the image has at most 2^31 Words is the model's choice (log 11, DESIGN CHOICE). -/
def Obligations.ProgramLoadPlacesImageThenOverlay : Prop :=
  ∀ (s : State) (image : List Word) (overlay : List (Addr × Word)),
    image.length ≤ 2 ^ 31 → (overlay.map Prod.fst).Nodup →
    s.load image overlay =
      { State.reset with mem := (s.load image overlay).mem, cfg := s.cfg } ∧
    (∀ p ∈ overlay, (s.load image overlay).mem.read p.1.toNat = p.2) ∧
    ∀ addr : Addr, (∀ p ∈ overlay, p.1 ≠ addr) →
      (s.load image overlay).mem.read addr.toNat = (image[addr.toNat]?).getD 0

/-- R294, R290, R84 (derived; decisions D3, D7): the Word 0, which never-written memory reads as, halts the core under every legal setting, with the PC on it by default. -/
def Obligations.RunningOffTheProgramHalts : Prop :=
  ∀ s : State, s.cfg.legal = true → s.status = .running → 0 ≤ s.pc.toInt → s.pc.toInt < s.cfg.pcLimit →
    s.mem.read s.pc.toNat = 0 →
    step s = .next { s with status := .halted, pc := if s.cfg.haltPcAdvance then s.pc + 1 else s.pc }

/-! ### Memory -/

/-- R61: a read returns the Word last written at its address, or 0 if it was never written since reset, after any list of writes (the last one at the end). -/
def Obligations.ReadReturnsTheLastWriteOrZero : Prop :=
  ∀ (writes : List (Addr × Word)) (addr : Addr),
    ((writes.foldl (fun s p => s.memWrite p.1 p.2) State.reset).memRead addr) =
      ((writes.reverse.find? fun p => p.1 == addr).map Prod.snd).getD 0

/-- R62: a write replaces the Word at its address, at any address, and changes nothing else; no instruction that reads or writes memory faults. -/
def Obligations.WriteReplacesOneWord : Prop :=
  (∀ (s : State) (addr : Addr) (w : Word),
    s.memWrite addr w = { s with mem := (s.memWrite addr w).mem } ∧
    (s.memWrite addr w).mem.read addr.toNat = w ∧
    (∀ b : Nat, b ≠ addr.toNat → (s.memWrite addr w).mem.read b = s.mem.read b)) ∧
  ∀ (i : Instr) (s t : State), i.op.operandClass = .memory ∨ i.op ∈ [Op.inx, .iny, .dex, .dey] →
    exec i s = .next t → t.status = s.status ∧ t.fault = s.fault

/-- R65, R50, R66 (decision D32): a step of a running core whose PC is in range uses the memory port for one fetch, then at most one data read, then at most one data write, and memory afterwards is what those writes make of it. -/
def Obligations.StepUsesThePortInOrder : Prop :=
  ∀ s t : State, s.cfg.legal = true → s.status = .running → 0 ≤ s.pc.toInt → s.pc.toInt < s.cfg.pcLimit →
    step s = .next t →
    (∃ reads writes, stepAccesses s = .fetch (s.pc.setWidth 31) :: (reads ++ writes) ∧
      reads.length ≤ 1 ∧ writes.length ≤ 1 ∧
      (∀ p ∈ reads, ∃ addr, p = .read addr) ∧ (∀ p ∈ writes, ∃ addr w, p = .write addr w)) ∧
    t.mem = (stepAccesses s).foldl Access.apply s.mem

/-- R63, R65, R72 (derived; decision D32): what a step does to the core depends on memory only at the addresses its port reads: two states that differ in memory elsewhere alone step alike, through the same accesses. -/
def Obligations.StepDependsOnlyOnTheWordsItReads : Prop :=
  ∀ s s' t : State, s.cfg.legal = true → s.sameCore s' →
    (∀ p ∈ stepAccesses s, ∀ addr, p.readAddr = some addr → s.memRead addr = s'.memRead addr) →
    step s = .next t →
    stepAccesses s' = stepAccesses s ∧ ∃ t', step s' = .next t' ∧ t.sameCore t'

/-! ### Invariants and whole-machine rules -/

/-- The invariant (R7, R34, R35, R36, R40, R60, R218, R304, R305, R307; the canonical form is log 2) is kept by every step from every state that has it. -/
def Obligations.StepKeepsTheInvariant : Prop :=
  ∀ s t : State, s.Inv → step s = .next t → t.Inv

/-- R52, R330 (decision D28), R331: the reset state has the invariant, and so has every program load of a machine with legal parameters. The canonical-memory clause of the invariant is the model's choice (log 2, DESIGN CHOICE). An image longer than the port's 2^31 addresses, to which the spec gives no meaning, is loaded as the model's `storeImage` does (log 11, DESIGN CHOICE): of it this says the invariant and nothing else. -/
def Obligations.ResetAndLoadHaveTheInvariant : Prop :=
  State.reset.Inv ∧ ∀ (s : State) (image : List Word) (overlay : List (Addr × Word)),
    s.cfg.legal = true → (s.load image overlay).Inv

/-- R48, R34, R311, R315 (decisions D22, D25): no step changes the parameters, and none leaves a terminal status. -/
def Obligations.ParametersAndTerminalStatusStay : Prop :=
  ∀ s t : State, step s = .next t → t.cfg = s.cfg ∧ (s.terminal → t.status = s.status)

/-- R28, R29 (decisions D14, D17): only the listed instructions write C, only ADC, SBC (under `V_RULE = adc_sbc_bit7`) and CLV write V, and nothing else makes V true. -/
def Obligations.OnlyTheListedInstructionsWriteFlags : Prop :=
  ∀ (i : Instr) (s t : State), exec i s = .next t →
    (i.op ∉ [Op.adc, .sbc, .asl, .lsr, .rol, .ror, .cmp, .cpx, .cpy, .clc, .sec] → t.c = s.c) ∧
    (i.op ∉ [Op.adc, .sbc, .clv] → t.v = s.v) ∧
    (i.op ∈ [Op.adc, .sbc] → s.cfg.vRule = .never → t.v = s.v) ∧
    (t.v = true → s.v = true ∨ i.op ∈ [Op.adc, .sbc] ∧ s.cfg.vRule = .adcSbcBit7)

/-- R23, R22 (derived; decision D10): the writers of A, X and Y; under `INDEX_STORAGE = shared_memory` INX, INY, DEX and DEY write neither X nor Y. -/
def Obligations.OnlyTheListedInstructionsWriteRegisters : Prop :=
  ∀ (i : Instr) (s t : State), exec i s = .next t →
    (i.op ∉ [Op.lda, .add, .sub, .adc, .sbc, .and, .ora, .eor, .asl, .lsr, .rol, .ror, .cmp, .pla, .plp, .txa, .tya] →
      t.a = s.a) ∧
    (i.op ∉ [Op.ldx, .tax, .tsx, .inx, .dex] → t.x = s.x) ∧
    (i.op ∉ [Op.ldy, .tay, .iny, .dey] → t.y = s.y) ∧
    (s.cfg.indexStorage = .sharedMemory → i.op ∈ [Op.inx, .iny, .dex, .dey] → t.x = s.x ∧ t.y = s.y)

/-- R38 (derived), R40 to R42, R220 (decisions D12, D18): the users of the stack. An instruction that does not fault adds one entry if it pushes, had a top and removes just that if it pops, and, if it is LOOP, had a top that it counts down or removes; all but these and TXS leave the stack as it is. -/
def Obligations.OnlyTheListedInstructionsChangeTheStack : Prop :=
  ∀ (i : Instr) (s t : State), exec i s = .next t →
    (i.op ∉ [Op.stx, .sty, .pha, .php, .jsr, .pla, .plp, .del, .rts, .loop, .txs] → t.stack = s.stack) ∧
    (i.op ∈ [Op.stx, .sty, .pha, .php, .jsr] → t.status ≠ .faulted → ∃ w, t.stack = s.stack ++ [w]) ∧
    (i.op ∈ [Op.pla, .plp, .del, .rts] → t.status ≠ .faulted → ∃ w, s.stack = t.stack ++ [w]) ∧
    (i.op = .loop → t.status ≠ .faulted →
      ∃ rest w, s.stack = rest ++ [w] ∧ (t.stack = rest ++ [w - 1] ∨ t.stack = rest))

/-- R62, R63, R104, R105 (derived; decisions D10, C4): the one address an instruction may store to is `ea` for STA, INC and DEC, and `INDEX_ALIAS_ADDR` for INX, INY, DEX and DEY under `INDEX_STORAGE = shared_memory`; every other address reads as before, and every other instruction leaves all of memory as it is. -/
def Obligations.OnlyTheListedInstructionsWriteMemory : Prop :=
  ∀ (i : Instr) (s t : State), exec i s = .next t →
    (i.op ∈ [Op.sta, .inc, .dec] → ∀ b : Nat, b ≠ (ea i.operand).toNat → t.mem.read b = s.mem.read b) ∧
    (i.op ∈ [Op.inx, .iny, .dex, .dey] → s.cfg.indexStorage = .sharedMemory →
      ∀ b : Nat, b ≠ (aliasAddr s.cfg).toNat → t.mem.read b = s.mem.read b) ∧
    (i.op ∈ [Op.inx, .iny, .dex, .dey] → s.cfg.indexStorage = .registers → t.mem = s.mem) ∧
    (i.op ∉ [Op.sta, .inc, .dec, .inx, .iny, .dex, .dey] → t.mem = s.mem)

/-- R25, R83, R210 (decisions D6, D7): where the next fetch is after an instruction that neither halts nor faults: the operand after a taken branch, else PC + 1; RTS apart. -/
def Obligations.NextFetchIsTheTargetOrTheNextWord : Prop :=
  ∀ (i : Instr) (s t : State), exec i s = .next t → t.status = .running →
    (i.op.operandClass ≠ .branch → i.op ≠ .rts → t.pc = s.pc + 1) ∧
    (i.op.operandClass = .branch → t.pc = i.operand.setWidth 32 ∨ t.pc = s.pc + 1) ∧
    (i.op ∈ [Op.jmp, .jsr] → t.pc = i.operand.setWidth 32)

/-- R300, R301, R305, R306, R308 (decisions D11, D12, D18, D21): which instruction raises which fault, and when. -/
def Obligations.FaultsComeOnlyFromTheirInstructions : Prop :=
  ∀ (i : Instr) (s t : State), s.status = .running → exec i s = .next t → t.status = .faulted →
    (t = faultedBy s .stackUnderflow i.op ∧ i.op ∈ [Op.pla, .plp, .del, .rts, .loop] ∧ s.stack = []) ∨
    (t = faultedBy s .stackOverflow i.op ∧ i.op ∈ [Op.stx, .sty, .pha, .php, .jsr] ∧
      s.cfg.stackCapacity = some s.stack.length) ∨
    (t = faultedBy s .stackOverflow i.op ∧ i.op = .txs ∧ s.cfg.txsGrowPolicy = .padZero ∧
      (s.stack.length : Int) < s.x.toInt ∧
      ∃ n, s.cfg.stackCapacity = some n ∧ s.stack.length ≤ n ∧ n < s.x.toNat) ∨
    (t = faultedBy s .stackSizeRange i.op ∧ i.op = .txs ∧
      (s.x.toInt < 0 ∨ s.cfg.txsGrowPolicy = .fault ∧ (s.stack.length : Int) < s.x.toInt))

/-- R36 (decision D27): the counter moves only by one, only for a word that decodes as Unknown in lenient mode. -/
def Obligations.OnlyUnknownWordsAreCounted : Prop :=
  ∀ s t : State, step s = .next t →
    (t.unkCount = s.unkCount ∨ t.unkCount = s.unkCount + 1) ∧
    (t.unkCount = s.unkCount + 1 → s.status = .running ∧ s.cfg.unknownOpcodeMode = .lenient ∧
      ∃ u, decode s.cfg (s.mem.read s.pc.toNat) = .error u)

/-- R93 (derived): the datapath driven by the decoder's control word does what the instruction's own rule says, for every operation but HALT, which the step cycle handles. -/
def Obligations.DatapathAgreesWithEveryMeaning : Prop :=
  ∀ (i : Instr) (s : State), i ≠ .halt →
    exec i s = endInstr i.op s (datapath (controlWord i.op) i.operand s)

/-! ### Load and store -/

/-- R100, R102, R103: LDA, LDX, LDY load the whole Word at the operand and complete in every state; nothing but the register and the PC changes. -/
def Obligations.LoadsReadTheOperandWord : Prop :=
  (ListedAs .lda 0x01 .memory ["LDA", "LOAD"] ∧ ListedAs .ldx 0x03 .memory ["LDX"] ∧ ListedAs .ldy 0x04 .memory ["LDY"]) ∧
  ∀ (v : Operand) (s : State),
    exec (.lda v) s = .next { s with a := s.mem.read v.toNat, pc := s.pc + 1 } ∧
    exec (.ldx v) s = .next { s with x := s.mem.read v.toNat, pc := s.pc + 1 } ∧
    exec (.ldy v) s = .next { s with y := s.mem.read v.toNat, pc := s.pc + 1 }

/-- R101, with R74's fetch of a word just stored: STA stores the whole of A at the operand, completes in every state, and changes no other Word; a store to PC + 1 is what the next step fetches. -/
def Obligations.StaStoresTheAccumulator : Prop :=
  ListedAs .sta 0x02 .memory ["STA", "STORE"] ∧
  ∀ (v : Operand) (s : State), ∃ t, exec (.sta v) s = .next t ∧
    t = { s with mem := s.mem.write v.toNat s.a, pc := s.pc + 1 } ∧
    t.mem.read v.toNat = s.a ∧ (∀ b : Nat, b ≠ v.toNat → t.mem.read b = s.mem.read b) ∧
    (v.toNat = (s.pc + 1).toNat → t.fetchWord = s.a)

/-- R104, R105 (decision D20), R40 (decision D12): STX and STY push the index register and leave memory as it is; a full finite stack faults. -/
def Obligations.StxAndStyPushTheIndexRegister : Prop :=
  ∀ s : State,
    (s.cfg.stackCapacity ≠ some s.stack.length →
      exec .stx s = .next { s with stack := s.stack ++ [s.x], pc := s.pc + 1 } ∧
      exec .sty s = .next { s with stack := s.stack ++ [s.y], pc := s.pc + 1 }) ∧
    (s.cfg.stackCapacity = some s.stack.length →
      exec .stx s = .next (faultedBy s .stackOverflow .stx) ∧
      exec .sty s = .next (faultedBy s .stackOverflow .sty))

/-! ### Arithmetic, logic, shifts -/

/-- R121, R122, R125, R126, R127 (decisions D4, D17): the full-width operations complete in every state and write A alone, no flag. -/
def Obligations.FullWidthAluWritesOnlyA : Prop :=
  ∀ (v : Operand) (s : State),
    exec (.add v) s = .next { s with a := s.a + s.mem.read v.toNat, pc := s.pc + 1 } ∧
    exec (.sub v) s = .next { s with a := s.a - s.mem.read v.toNat, pc := s.pc + 1 } ∧
    exec (.and v) s = .next { s with a := s.a &&& s.mem.read v.toNat, pc := s.pc + 1 } ∧
    exec (.ora v) s = .next { s with a := s.a ||| s.mem.read v.toNat, pc := s.pc + 1 } ∧
    exec (.eor v) s = .next { s with a := s.a ^^^ s.mem.read v.toNat, pc := s.pc + 1 }

/-- R123 (decisions D5, D13, D14; K5): ADC. -/
def Obligations.AdcResultAndFlags : Prop :=
  ∀ (v : Operand) (s : State) (m r : Word), m = s.mem.read v.toNat → r = s.a + m + (if s.c then 1 else 0) →
    exec (.adc v) s = .next { s with
      a := r &&& 0xFF
      c := decide (r.toInt > 0xFF)
      v := if s.cfg.vRule = .adcSbcBit7 then ((s.a ^^^ r) &&& (m ^^^ r)).getLsbD 7 else s.v
      pc := s.pc + 1 }

/-- R124 (decisions D5, D13, D14; K6, K7): SBC. -/
def Obligations.SbcResultAndFlags : Prop :=
  ∀ (v : Operand) (s : State) (m r : Word), m = s.mem.read v.toNat → r = s.a - m - (1 - (if s.c then 1 else 0)) →
    exec (.sbc v) s = .next { s with
      a := r &&& 0xFF
      c := decide (0 ≤ r.toInt)
      v := if s.cfg.vRule = .adcSbcBit7 then ((s.a ^^^ m) &&& (s.a ^^^ r)).getLsbD 7 else s.v
      pc := s.pc + 1 }

/-- R123, R124 (decisions D5, D13, D14; K5 to K7), on values in 0 .. 0xFF: the carry is the ninth bit of the sum, the inverted carry the borrow of the difference, and V is the signed overflow of the bytes. -/
def Obligations.AdcAndSbcAreByteArithmeticWithCarry : Prop :=
  ∀ (v : Operand) (s : State) (m : Word), m = s.mem.read v.toNat → s.a.toNat < 256 → m.toNat < 256 →
    (∃ t, exec (.adc v) s = .next t ∧
      t.a.toNat + 256 * t.c.toNat = s.a.toNat + m.toNat + s.c.toNat ∧
      (s.cfg.vRule = .adcSbcBit7 →
        (t.v = true ↔ ((t.a.setWidth 8).toInt ≠ (s.a.setWidth 8).toInt + (m.setWidth 8).toInt + s.c.toNat)))) ∧
    (∃ t, exec (.sbc v) s = .next t ∧
      t.a.toNat + m.toNat + (1 - s.c.toNat) = s.a.toNat + 256 * (1 - t.c.toNat) ∧
      (s.cfg.vRule = .adcSbcBit7 →
        (t.v = true ↔ ((t.a.setWidth 8).toInt ≠ (s.a.setWidth 8).toInt - (m.setWidth 8).toInt - (1 - s.c.toNat : Nat)))))

/-- R128 to R132 (decisions D15, D20; K1 to K4): the shifts and rotates by one place, on 32 bits or on the low byte; C is the bit shifted out, V and the rest are unchanged. -/
def Obligations.ShiftsAndRotatesMoveOnePlace : Prop :=
  ∀ s : State,
    (s.cfg.shiftWidth = .bits32 →
      exec .asl s = .next { s with a := s.a <<< 1, c := s.a.getLsbD 31, pc := s.pc + 1 } ∧
      exec .lsr s = .next { s with a := s.a >>> 1, c := s.a.getLsbD 0, pc := s.pc + 1 } ∧
      exec .rol s = .next { s with
        a := (s.a <<< 1) ||| (if s.c then 1 else 0), c := s.a.getLsbD 31, pc := s.pc + 1 } ∧
      exec .ror s = .next { s with
        a := (s.a >>> 1) ||| ((if s.c then (1 : Word) else 0) <<< 31), c := s.a.getLsbD 0, pc := s.pc + 1 }) ∧
    (s.cfg.shiftWidth = .bits8 → ∀ b : Word, b = s.a &&& 0xFF →
      exec .asl s = .next { s with a := (b <<< 1) &&& 0xFF, c := b.getLsbD 7, pc := s.pc + 1 } ∧
      exec .lsr s = .next { s with a := b >>> 1, c := b.getLsbD 0, pc := s.pc + 1 } ∧
      exec .rol s = .next { s with
        a := ((b <<< 1) ||| (if s.c then 1 else 0)) &&& 0xFF, c := b.getLsbD 7, pc := s.pc + 1 } ∧
      exec .ror s = .next { s with
        a := (b >>> 1) ||| ((if s.c then (1 : Word) else 0) <<< 7), c := b.getLsbD 0, pc := s.pc + 1 })

/-! ### Compare -/

/-- R160, R161, R162 (decisions D4, D5): C is the signed comparison of the old register; CMP also narrows A; V and the rest are unchanged. -/
def Obligations.ComparesSetCarryAndCmpNarrowsA : Prop :=
  ∀ (v : Operand) (s : State) (m : Word), m = s.mem.read v.toNat →
    exec (.cmp v) s = .next { s with
      c := decide (s.a.toInt ≥ m.toInt), a := (s.a - m) &&& 0xFF, pc := s.pc + 1 } ∧
    exec (.cpx v) s = .next { s with c := decide (s.x.toInt ≥ m.toInt), pc := s.pc + 1 } ∧
    exec (.cpy v) s = .next { s with c := decide (s.y.toInt ≥ m.toInt), pc := s.pc + 1 }

/-- R163 (derived): after CMP, BEQ branches exactly when the low bytes of A and the Word compared are equal; after CPX or CPY it tests the unchanged A. -/
def Obligations.BeqAfterCmpTestsTheLowBytes : Prop :=
  ∀ (m target : Operand) (s t u : State), target.toNat ≠ (s.pc + 2).toNat → exec (.beq target) t = .next u →
    (exec (.cmp m) s = .next t →
      (u.pc = target.setWidth 32 ↔ s.a.setWidth 8 = (s.mem.read m.toNat).setWidth 8)) ∧
    (exec (.cpx m) s = .next t ∨ exec (.cpy m) s = .next t → (u.pc = target.setWidth 32 ↔ s.a = 0))

/-! ### Increment and decrement -/

/-- R170, R171 (decision D17): INC and DEC read and write one cell, masked to 8 bits; every other address reads as before, no flag and no register changes. -/
def Obligations.IncAndDecUpdateOneCell : Prop :=
  ∀ (v : Operand) (s : State), ∃ t u, exec (.inc v) s = .next t ∧ exec (.dec v) s = .next u ∧
    t = { s with mem := t.mem, pc := s.pc + 1 } ∧ t.mem.read v.toNat = (s.mem.read v.toNat + 1) &&& 0xFF ∧
    (∀ b : Nat, b ≠ v.toNat → t.mem.read b = s.mem.read b) ∧
    u = { s with mem := u.mem, pc := s.pc + 1 } ∧ u.mem.read v.toNat = (s.mem.read v.toNat - 1) &&& 0xFF ∧
    (∀ b : Nat, b ≠ v.toNat → u.mem.read b = s.mem.read b)

/-- R172 to R175 with `INDEX_STORAGE = registers` (decisions D4, D10): full width, no flag. -/
def Obligations.IndexInstructionsUpdateTheirRegister : Prop :=
  ∀ s : State, s.cfg.indexStorage = .registers →
    exec .inx s = .next { s with x := s.x + 1, pc := s.pc + 1 } ∧
    exec .iny s = .next { s with y := s.y + 1, pc := s.pc + 1 } ∧
    exec .dex s = .next { s with x := s.x - 1, pc := s.pc + 1 } ∧
    exec .dey s = .next { s with y := s.y - 1, pc := s.pc + 1 }

/-- R22, R172 to R175 with `INDEX_STORAGE = shared_memory` (decisions D4, D10): all four work on the one cell `INDEX_ALIAS_ADDR`, full width; X and Y do not change. -/
def Obligations.SharedIndexInstructionsUpdateTheAliasCell : Prop :=
  ∀ (s : State) (b : Nat), s.cfg.indexStorage = .sharedMemory → b = s.cfg.indexAliasAddr.toNat →
    exec .inx s = .next { s with mem := s.mem.write b (s.mem.read b + 1), pc := s.pc + 1 } ∧
    exec .iny s = .next { s with mem := s.mem.write b (s.mem.read b + 1), pc := s.pc + 1 } ∧
    exec .dex s = .next { s with mem := s.mem.write b (s.mem.read b - 1), pc := s.pc + 1 } ∧
    exec .dey s = .next { s with mem := s.mem.write b (s.mem.read b - 1), pc := s.pc + 1 }

/-! ### Stack -/

/-- R190, R193; R40, R304 (decisions D12, D21): PHA and PHP push the whole of A, no flag; a full stack of finite capacity faults. -/
def Obligations.PhaAndPhpPushTheAccumulator : Prop :=
  (ListedAs .pha 0x1B .implied ["PHA", "PUSH"] ∧ ListedAs .php 0x1E .implied ["PHP"]) ∧
  ∀ s : State,
    (s.cfg.stackCapacity ≠ some s.stack.length →
      exec .pha s = .next { s with stack := s.stack ++ [s.a], pc := s.pc + 1 } ∧
      exec .php s = .next { s with stack := s.stack ++ [s.a], pc := s.pc + 1 }) ∧
    (s.cfg.stackCapacity = some s.stack.length →
      exec .pha s = .next (faultedBy s .stackOverflow .pha) ∧
      exec .php s = .next (faultedBy s .stackOverflow .php))

/-- R191, R192, R194: PLA and PLP pop into A, DEL discards, none touches a flag; on an empty stack each stops the machine in Faulted with a StackUnderflow record and nothing else changed. (What else the record holds is decision D21, stated apart.) -/
def Obligations.PlaPlpAndDelPopTheStack : Prop :=
  (ListedAs .pla 0x1C .implied ["PLA", "POP"] ∧ ListedAs .del 0x1D .implied ["DEL"] ∧ ListedAs .plp 0x1F .implied ["PLP"]) ∧
  ∀ s : State,
    (∀ (rest : List Word) (top : Word), s.stack = rest ++ [top] →
      exec .pla s = .next { s with a := top, stack := rest, pc := s.pc + 1 } ∧
      exec .plp s = .next { s with a := top, stack := rest, pc := s.pc + 1 } ∧
      exec .del s = .next { s with stack := rest, pc := s.pc + 1 }) ∧
    (s.stack = [] → ∀ i : Instr, i ∈ [Instr.pla, .plp, .del] →
      ∃ r : FaultRecord, r.kind = .stackUnderflow ∧ exec i s = .next { s with status := .faulted, fault := some r })

/-- R46: a stack operation that succeeds changes nothing but the stack, and a push followed by a pop returns the pushed value and leaves the stack at its prior size. -/
def Obligations.StackOperationsTouchOnlyTheStack : Prop :=
  (∀ (s t : State) (w : Word), s.push w = .ok t →
    t = { s with stack := t.stack } ∧ ∃ u, t.pop = .ok (w, u) ∧ u.stackSize = s.stackSize ∧ u = s) ∧
  (∀ (s t : State) (w : Word), s.pop = .ok (w, t) → t = { s with stack := t.stack }) ∧
  (∀ (s : State) (w : Word), s.replaceTop w = { s with stack := (s.replaceTop w).stack }) ∧
  (∀ (s t : State) (n : Word), s.setSize n = .ok t → t = { s with stack := t.stack }) ∧
  (∀ s : State, s.clearStack = { s with stack := [] })

/-! ### Control transfer -/

/-- R211: JMP completes in every state and the next fetch is exactly at the operand; nothing else changes. -/
def Obligations.JmpLandsOnItsOperand : Prop :=
  ListedAs .jmp 0x20 .branch ["JMP", "GO"] ∧
  ∀ (v : Operand) (s : State), exec (.jmp v) s = .next { s with pc := v.setWidth 32 }

/-- R212, R213: BEQ and BNE test all 32 bits of A. -/
def Obligations.BeqAndBneTestTheAccumulator : Prop :=
  (ListedAs .beq 0x21 .branch ["BEQ", "JZ"] ∧ ListedAs .bne 0x22 .branch ["BNE"]) ∧
  ∀ (v : Operand) (s : State),
    exec (.beq v) s = .next { s with pc := if s.a = 0 then v.setWidth 32 else s.pc + 1 } ∧
    exec (.bne v) s = .next { s with pc := if s.a = 0 then s.pc + 1 else v.setWidth 32 }

/-- R216, R217: BCC and BCS test C. -/
def Obligations.BccAndBcsTestTheCarry : Prop :=
  (ListedAs .bcc 0x25 .branch ["BCC"] ∧ ListedAs .bcs 0x26 .branch ["BCS"]) ∧
  ∀ (v : Operand) (s : State),
    exec (.bcc v) s = .next { s with pc := if s.c then s.pc + 1 else v.setWidth 32 } ∧
    exec (.bcs v) s = .next { s with pc := if s.c then v.setWidth 32 else s.pc + 1 }

/-- R214, R215, R218, R219, R31 (decisions D14, D16; K8): BMI and BPL test the sign bit that `SIGN_BIT` selects, by default the sign of the Word; BVC and BVS test V. -/
def Obligations.SignAndOverflowBranches : Prop :=
  ∀ (v : Operand) (s : State) (n : Bool),
    n = (match s.cfg.signBit with | .bit31 => decide (s.a.toInt < 0) | .bit7 => s.a.getLsbD 7) →
    exec (.bmi v) s = .next { s with pc := if n then v.setWidth 32 else s.pc + 1 } ∧
    exec (.bpl v) s = .next { s with pc := if n then s.pc + 1 else v.setWidth 32 } ∧
    exec (.bvc v) s = .next { s with pc := if s.v then s.pc + 1 else v.setWidth 32 } ∧
    exec (.bvs v) s = .next { s with pc := if s.v then v.setWidth 32 else s.pc + 1 }

/-- R220 (decision D18): LOOP counts the stack top down and branches while it is not 0; at 0 the counter is popped and the next word follows; an empty stack faults. -/
def Obligations.LoopCountsTheStackTopDown : Prop :=
  ∀ (v : Operand) (s : State),
    (∀ (rest : List Word) (top : Word), s.stack = rest ++ [top] →
      (top ≠ 1 → exec (.loop v) s = .next { s with stack := rest ++ [top - 1], pc := v.setWidth 32 }) ∧
      (top = 1 → exec (.loop v) s = .next { s with stack := rest, pc := s.pc + 1 })) ∧
    (s.stack = [] → exec (.loop v) s = .next (faultedBy s .stackUnderflow .loop))

/-- R221 (decisions D6, D12): JSR pushes its own address plus 2 and jumps; a full finite stack faults. -/
def Obligations.JsrPushesTheLinkAndJumps : Prop :=
  ∀ (v : Operand) (s : State),
    (s.cfg.stackCapacity ≠ some s.stack.length →
      exec (.jsr v) s = .next { s with stack := s.stack ++ [s.pc + 2], pc := v.setWidth 32 }) ∧
    (s.cfg.stackCapacity = some s.stack.length →
      exec (.jsr v) s = .next (faultedBy s .stackOverflow .jsr))

/-- R222, R83 (decision D6): RTS pops the PC, which the increment follows when `RTS_INCREMENT = true`; an empty stack faults. -/
def Obligations.RtsPopsThePc : Prop :=
  ∀ s : State,
    (∀ (rest : List Word) (link : Word), s.stack = rest ++ [link] →
      exec .rts s = .next { s with stack := rest, pc := if s.cfg.rtsIncrement then link + 1 else link }) ∧
    (s.stack = [] → exec .rts s = .next (faultedBy s .stackUnderflow .rts))

/-- R221, R222, R223 (derived; decision D6): a subroutine that leaves its link on the stack top and the rest of the stack as it was returns to the JSR's address plus 3, or plus 2 when `RTS_INCREMENT = false`, with the caller's stack. -/
def Obligations.CallAndReturnResumeTheCaller : Prop :=
  ∀ (v : Operand) (s t u : State), s.cfg.stackCapacity ≠ some s.stack.length → exec (.jsr v) s = .next t →
    u.stack = t.stack → u.cfg = t.cfg →
    t.pc = v.setWidth 32 ∧
    exec .rts u = .next { u with stack := s.stack, pc := if s.cfg.rtsIncrement then s.pc + 3 else s.pc + 2 }

/-- R220 (decision D18), R82 (decisions D6, D8), run as steps: a LOOP that branches to itself, entered with a counter n, ends after exactly n steps, or 2^32 where n is 0, with the counter popped and the PC on the next word. -/
def Obligations.LoopEndsAfterCounterManySteps : Prop :=
  ∀ (s : State) (k : Operand) (rest : List Word) (n : Word),
    s.cfg.legal = true → s.status = .running → s.pc = k.setWidth 32 → s.pc.toInt < s.cfg.pcLimit →
    decode s.cfg (s.mem.read k.toNat) = .ok (.loop k) → s.stack = rest ++ [n] →
    Host.Core.run Sys2Proof.core (if n = 0 then 2 ^ 32 else n.toNat) s = .next { s with stack := rest, pc := s.pc + 1 }

/-- R211, R334: `JMP k` at address k never ends: after any number of steps the machine is where it was, Running. -/
def Obligations.JumpToItselfRunsForever : Prop :=
  ∀ (s : State) (k : Operand) (n : Nat),
    s.cfg.legal = true → s.status = .running → s.pc = k.setWidth 32 → s.pc.toInt < s.cfg.pcLimit →
    decode s.cfg (s.mem.read k.toNat) = .ok (.jmp k) →
    Host.Core.run Sys2Proof.core n s = .next s

/-! ### Transfers, flags, no effect, halt -/

/-- R250 to R254 (decisions D17, D29): the transfers copy whole Words, TSX the stack's size modulo 2^32; nothing else changes. -/
def Obligations.TransfersCopyWholeWords : Prop :=
  ∀ s : State,
    exec .tax s = .next { s with x := s.a, pc := s.pc + 1 } ∧
    exec .tay s = .next { s with y := s.a, pc := s.pc + 1 } ∧
    exec .txa s = .next { s with a := s.x, pc := s.pc + 1 } ∧
    exec .tya s = .next { s with a := s.y, pc := s.pc + 1 } ∧
    exec .tsx s = .next { s with x := BitVec.ofNat 32 s.stack.length, pc := s.pc + 1 }

/-- R255, R44 (decision D11, C6): TXS truncates the stack to its X bottom entries; a negative X faults; an X above the size faults, does nothing or pads with zeros, as `TXS_GROW_POLICY` says, and padding past a finite capacity faults with no change. -/
def Obligations.TxsSetsTheStackSize : Prop :=
  ∀ s : State,
    (s.x.toInt < 0 → exec .txs s = .next (faultedBy s .stackSizeRange .txs)) ∧
    (0 ≤ s.x.toInt → s.x.toInt ≤ s.stack.length →
      exec .txs s = .next { s with stack := s.stack.take s.x.toNat, pc := s.pc + 1 }) ∧
    ((s.stack.length : Int) < s.x.toInt → s.cfg.txsGrowPolicy = .fault →
      exec .txs s = .next (faultedBy s .stackSizeRange .txs)) ∧
    ((s.stack.length : Int) < s.x.toInt → s.cfg.txsGrowPolicy = .noop →
      exec .txs s = .next { s with pc := s.pc + 1 }) ∧
    ((s.stack.length : Int) < s.x.toInt → s.cfg.txsGrowPolicy = .padZero →
      ((∀ n, s.cfg.stackCapacity = some n → n < s.stack.length ∨ s.x.toNat ≤ n) →
        exec .txs s = .next { s with
          stack := s.stack ++ List.replicate (s.x.toNat - s.stack.length) 0, pc := s.pc + 1 }) ∧
      (∀ n, s.cfg.stackCapacity = some n → s.stack.length ≤ n → n < s.x.toNat →
        exec .txs s = .next (faultedBy s .stackOverflow .txs)))

/-- R256, R257, R258: CLC, SEC and CLV write their one flag and nothing else; no instruction but ADC and SBC makes V true. -/
def Obligations.FlagInstructionsWriteOneFlag : Prop :=
  (ListedAs .clc 0x32 .implied ["CLC"] ∧ ListedAs .sec 0x33 .implied ["SEC"] ∧ ListedAs .clv 0x34 .implied ["CLV"]) ∧
  (∀ s : State,
    exec .clc s = .next { s with c := false, pc := s.pc + 1 } ∧
    exec .sec s = .next { s with c := true, pc := s.pc + 1 } ∧
    exec .clv s = .next { s with v := false, pc := s.pc + 1 }) ∧
  ∀ (i : Instr) (s t : State), exec i s = .next t → s.v = false → t.v = true → i.op ∈ [Op.adc, .sbc]

/-- R259 to R265 (decision D19): the seven no-effect instructions change the PC alone; RTI is no return. -/
def Obligations.NoEffectInstructionsOnlyAdvanceThePc : Prop :=
  ∀ (i : Instr) (s : State), i ∈ [Instr.cld, .cli, .sed, .sei, .nop, .rti, .bit] →
    exec i s = .next { s with pc := s.pc + 1 }

/-- R290 (decision D7): HALT changes the status, and the PC only under `HALT_PC_ADVANCE = true`. -/
def Obligations.HaltStopsCleanly : Prop :=
  ∀ s : State,
    (s.cfg.haltPcAdvance = false → exec .halt s = .next { s with status := .halted }) ∧
    (s.cfg.haltPcAdvance = true → exec .halt s = .next { s with status := .halted, pc := s.pc + 1 })
end

