-- ==== Sys2Proof/Laws/Decode.lean ====
section
/-! SUPPORT. The laws of the encoding: the fields of a packed word, the opcode map read both ways, and what decode can answer. -/
namespace Sys2Proof

/-! ### Fields of a packed word (30_encoding.md R80, R91) -/

theorem packWord_toNat (opc : Opcode) (w : Word) :
    (packWord opc w).toNat = opc.toNat * 2 ^ 16 + w.toNat % 2 ^ 16 := by
  have hl : (opc.setWidth 32 <<< 16 : Word).toNat = opc.toNat <<< 16 := by
    have := opc.isLt
    simp [Nat.shiftLeft_eq]; omega
  have hr : (w &&& 0xFFFF : Word).toNat = w.toNat % 2 ^ 16 := by
    rw [BitVec.toNat_and]; exact Nat.and_two_pow_sub_one_eq_mod w.toNat 16
  rw [packWord, BitVec.toNat_or, hl, hr, ← Nat.shiftLeft_add_eq_or_of_lt (Nat.mod_lt _ (by decide)), Nat.shiftLeft_eq]

theorem hiField_toNat (w : Word) : (hiField w).toNat = w.toNat / 2 ^ 24 := by
  have := w.isLt
  simp [hiField, Nat.shiftRight_eq_div_pow]; omega

theorem opcField_toNat (w : Word) : (opcField w).toNat = w.toNat / 2 ^ 16 % 2 ^ 8 := by
  simp [opcField, Nat.shiftRight_eq_div_pow]

theorem operandField_toNat (w : Word) : (operandField w).toNat = w.toNat % 2 ^ 16 := by
  simp [operandField]

@[simp] theorem hiField_packWord (opc : Opcode) (w : Word) : hiField (packWord opc w) = 0#8 := by
  apply BitVec.eq_of_toNat_eq
  have := opc.isLt
  rw [hiField_toNat, packWord_toNat]; simp; omega

@[simp] theorem opcField_packWord (opc : Opcode) (w : Word) : opcField (packWord opc w) = opc := by
  apply BitVec.eq_of_toNat_eq
  have := opc.isLt
  rw [opcField_toNat, packWord_toNat]; omega

@[simp] theorem operandField_packWord (opc : Opcode) (w : Word) : operandField (packWord opc w) = w.setWidth 16 := by
  apply BitVec.eq_of_toNat_eq
  rw [operandField_toNat, packWord_toNat, BitVec.toNat_setWidth]; omega

/-- A word with a zero high byte is packed from its own fields. -/
theorem packWord_fields {w : Word} (h : hiField w = 0) : packWord (opcField w) ((operandField w).setWidth 32) = w := by
  apply BitVec.eq_of_toNat_eq
  have h := congrArg BitVec.toNat h
  rw [hiField_toNat] at h
  rw [packWord_toNat, opcField_toNat, BitVec.toNat_setWidth, operandField_toNat]; simp at *; omega

/-! ### The opcode map read both ways (R87) -/

theorem OpcodeMap.operation_eq_none {m : OpcodeMap} {opc : Opcode} :
    m.operation opc = none ↔ ∀ e ∈ m, e.2 ≠ opc := by
  simp [OpcodeMap.operation]

theorem OpcodeMap.operation_some {m : OpcodeMap} {opc : Opcode} {op : Op} (h : m.operation opc = some op) :
    (op, opc) ∈ m := by
  simp only [OpcodeMap.operation, Option.map_eq_some_iff] at h
  obtain ⟨e, he, rfl⟩ := h
  have h1 := List.mem_of_find?_eq_some he
  have h2 := List.find?_some he
  simp at h2
  rwa [← h2]

theorem OpcodeMap.operation_of_mem {m : OpcodeMap} {opc : Opcode} {op : Op} (hn : (m.map Prod.snd).Nodup)
    (h : (op, opc) ∈ m) : m.operation opc = some op := by
  induction m with
  | nil => simp at h
  | cons e m ih =>
    simp only [List.map_cons, List.nodup_cons, List.mem_map, not_exists, not_and] at hn
    rcases List.mem_cons.mp h with rfl | h
    · simp [OpcodeMap.operation]
    · have hne : e.2 ≠ opc := fun he => hn.1 (op, opc) h he.symm
      simpa [OpcodeMap.operation, List.find?_cons, hne] using ih hn.2 h

theorem OpcodeMap.number_of_mem {m : OpcodeMap} {opc : Opcode} {op : Op} (hn : (m.map Prod.fst).Nodup)
    (h : (op, opc) ∈ m) : m.number op = opc := by
  induction m with
  | nil => simp at h
  | cons e m ih =>
    simp only [List.map_cons, List.nodup_cons, List.mem_map, not_exists, not_and] at hn
    rcases List.mem_cons.mp h with rfl | h
    · simp [OpcodeMap.number]
    · have hne : e.1 ≠ op := fun he => hn.1 (op, opc) h he.symm
      simpa [OpcodeMap.number, List.find?_cons, hne] using ih hn.2 h

theorem Op.all_nodup : Op.all.Nodup := by decide

theorem Op.mem_all (op : Op) : op ∈ Op.all := by cases op <;> decide

/-- What a legal opcode map is. -/
theorem Config.legal_map {cfg : Config} (h : cfg.legal = true) :
    cfg.opcodeMap.map Prod.fst = Op.all ∧ (cfg.opcodeMap.map Prod.snd).Nodup ∧ (Op.halt, 0) ∈ cfg.opcodeMap := by
  simp only [Config.legal, OpcodeMap.complete, OpcodeMap.injective, OpcodeMap.haltIsZero, Bool.and_eq_true,
    decide_eq_true_eq] at h
  exact ⟨h.1.1.1.1, h.1.1.1.2, h.1.1.2⟩

/-- A legal `PC_LIMIT`. -/
theorem Config.legal_pcLimit {cfg : Config} (h : cfg.legal = true) : 1 ≤ cfg.pcLimit ∧ cfg.pcLimit ≤ 2 ^ 31 := by
  simp only [Config.legal, Config.pcLimitInRange, Bool.and_eq_true, decide_eq_true_eq] at h
  exact h.1.2

/-- Under a legal map every operation has its number, and that number has the operation. -/
theorem OpcodeMap.number_mem {cfg : Config} (h : cfg.legal = true) (op : Op) :
    (op, cfg.opcodeMap.number op) ∈ cfg.opcodeMap := by
  obtain ⟨hf, -, -⟩ := Config.legal_map h
  have hop : op ∈ cfg.opcodeMap.map Prod.fst := by rw [hf]; exact Op.mem_all op
  obtain ⟨e, he, rfl⟩ := List.mem_map.mp hop
  rwa [OpcodeMap.number_of_mem (opc := e.2) (by rw [hf]; exact Op.all_nodup) he]

theorem OpcodeMap.operation_number {cfg : Config} (h : cfg.legal = true) (op : Op) :
    cfg.opcodeMap.operation (cfg.opcodeMap.number op) = some op :=
  OpcodeMap.operation_of_mem (Config.legal_map h).2.1 (OpcodeMap.number_mem h op)

theorem OpcodeMap.number_of_operation {cfg : Config} (h : cfg.legal = true) {opc : Opcode} {op : Op}
    (ho : cfg.opcodeMap.operation opc = some op) : cfg.opcodeMap.number op = opc :=
  OpcodeMap.number_of_mem (by rw [(Config.legal_map h).1]; exact Op.all_nodup) (OpcodeMap.operation_some ho)

/-- R87: HALT has the number 0. -/
theorem OpcodeMap.operation_zero {cfg : Config} (h : cfg.legal = true) : cfg.opcodeMap.operation 0 = some .halt :=
  OpcodeMap.operation_of_mem (Config.legal_map h).2.1 (Config.legal_map h).2.2

/-! ### Instructions as operation and operand -/

@[simp] theorem Op.withOperand_op (op : Op) (v : Operand) : (op.withOperand v).op = op := by cases op <;> rfl

theorem Op.withOperand_operand (op : Op) (v : Operand) :
    (op.withOperand v).operand = if op.operandClass = .implied then 0 else v := by cases op <;> rfl

/-- An instruction is its operation with its operand. -/
@[simp] theorem Instr.withOperand_self (i : Instr) : i.op.withOperand i.operand = i := by cases i <;> rfl

/-- A class I operation ignores the operand (R89). -/
theorem Op.withOperand_implied {op : Op} (h : op.operandClass = .implied) (v w : Operand) :
    op.withOperand v = op.withOperand w := by cases op <;> first | rfl | simp [Op.operandClass] at h

/-! ### What decode can answer (R84) -/

theorem decode_cases (cfg : Config) (w : Word) :
    (hiField w ≠ 0 ∧ cfg.highBytePolicy = .unknown ∧ decode cfg w = .error .highByte) ∨
    (¬ (hiField w ≠ 0 ∧ cfg.highBytePolicy = .unknown) ∧ cfg.opcodeMap.operation (opcField w) = none ∧
      decode cfg w = .error .noOperation) ∨
    (¬ (hiField w ≠ 0 ∧ cfg.highBytePolicy = .unknown) ∧ ∃ op, cfg.opcodeMap.operation (opcField w) = some op ∧
      decode cfg w = .ok (op.withOperand (operandField w))) := by
  unfold decode
  by_cases h : hiField w ≠ 0 ∧ cfg.highBytePolicy = .unknown
  · exact .inl ⟨h.1, h.2, if_pos h⟩
  · cases ho : cfg.opcodeMap.operation (opcField w) with
    | none => exact .inr (.inl ⟨h, rfl, if_neg h⟩)
    | some op => exact .inr (.inr ⟨h, op, rfl, if_neg h⟩)

/-- What a decoded word is made of. -/
theorem decode_ok {cfg : Config} {w : Word} {i : Instr} (h : decode cfg w = .ok i) :
    ¬ (hiField w ≠ 0 ∧ cfg.highBytePolicy = .unknown) ∧ cfg.opcodeMap.operation (opcField w) = some i.op ∧
      i = i.op.withOperand (operandField w) := by
  rcases decode_cases cfg w with ⟨-, -, hd⟩ | ⟨-, -, hd⟩ | ⟨hh, op, ho, hd⟩ <;> rw [hd] at h
  · cases h
  · cases h
  · cases h
    exact ⟨hh, by simpa using ho, by simp⟩

/-- The opcode field of a decoded word is the operation's number. -/
theorem number_of_decode {cfg : Config} {w : Word} {i : Instr} (hl : cfg.legal = true) (h : decode cfg w = .ok i) :
    cfg.opcodeMap.number i.op = opcField w := OpcodeMap.number_of_operation hl (decode_ok h).2.1

end Sys2Proof
end

