-- ==== Sys2Proof/Laws/Memory.lean ====
section
/-! SUPPORT. The laws of memory: read after write, and the canonical form kept by every operation. -/
namespace Sys2Proof.Machine

@[simp] theorem Memory.read_nil (a : Nat) : Memory.read [] a = unlistedWord := rfl

theorem Memory.read_eq_unlisted {m : Memory} {a : Nat} (h : ∀ cell ∈ m, cell.1 ≠ a) :
    m.read a = unlistedWord := by
  induction m with
  | nil => rfl
  | cons cell m ih =>
    have hne : cell.1 ≠ a := h cell (by simp)
    simp only [Memory.read, hne, if_false]
    exact ih fun c hc => h c (by simp [hc])

theorem Memory.read_filter_same (m : Memory) (a : Nat) :
    Memory.read (m.filter fun cell => cell.1 != a) a = unlistedWord :=
  Memory.read_eq_unlisted fun cell h => by simpa using (List.mem_filter.mp h).2

theorem Memory.read_filter_other (m : Memory) {a b : Nat} (h : b ≠ a) :
    Memory.read (m.filter fun cell => cell.1 != a) b = m.read b := by
  induction m with
  | nil => rfl
  | cons cell m ih =>
    obtain ⟨k, w⟩ := cell
    by_cases hk : k = a
    · subst hk
      simp [Memory.read, ih, Ne.symm h]
    · simp [Memory.read, hk, ih]

theorem Memory.read_insert_same (m : Memory) (a : Nat) (w : Word) (h : ∀ cell ∈ m, cell.1 ≠ a) :
    (Memory.insert m a w).read a = w := by
  induction m with
  | nil => simp [Memory.insert, Memory.read]
  | cons cell m ih =>
    have hne : cell.1 ≠ a := h cell (by simp)
    have ih := ih fun c hc => h c (by simp [hc])
    unfold Memory.insert
    split
    · simp [Memory.read]
    · simp [Memory.read, hne, ih]

theorem Memory.read_insert_other (m : Memory) {a b : Nat} (w : Word) (h : b ≠ a) :
    (Memory.insert m a w).read b = m.read b := by
  induction m with
  | nil => simp [Memory.insert, Memory.read, Ne.symm h]
  | cons cell m ih =>
    unfold Memory.insert
    split
    · simp [Memory.read, Ne.symm h]
    · simp [Memory.read, ih]

/-- R62: the written address reads the Word written. -/
@[simp] theorem Memory.read_write_same (m : Memory) (a : Nat) (w : Word) : (m.write a w).read a = w := by
  unfold Memory.write
  split
  · subst_vars; exact Memory.read_filter_same m a
  · exact Memory.read_insert_same _ a w fun cell h => by simpa using (List.mem_filter.mp h).2

/-- R62: every other address reads as before. -/
theorem Memory.read_write_other (m : Memory) {a b : Nat} (w : Word) (h : b ≠ a) :
    (m.write a w).read b = m.read b := by
  unfold Memory.write
  split
  · exact Memory.read_filter_other m h
  · rw [Memory.read_insert_other _ w h, Memory.read_filter_other m h]

theorem Memory.read_write (m : Memory) (a b : Nat) (w : Word) :
    (m.write a w).read b = if b = a then w else m.read b := by
  split
  · subst_vars; simp
  · exact Memory.read_write_other m w ‹_›

theorem Memory.mem_insert {m : Memory} {a : Nat} {w : Word} {cell : Nat × Word} :
    cell ∈ Memory.insert m a w ↔ cell = (a, w) ∨ cell ∈ m := by
  induction m with
  | nil => simp [Memory.insert]
  | cons c m ih =>
    unfold Memory.insert
    split
    · simp
    · simp only [List.mem_cons, ih]; tauto

theorem Memory.insert_rising {m : Memory} {a : Nat} (w : Word)
    (h : m.Pairwise fun p q => p.1 < q.1) (hne : ∀ cell ∈ m, cell.1 ≠ a) :
    (Memory.insert m a w).Pairwise fun p q => p.1 < q.1 := by
  induction m with
  | nil => simp [Memory.insert]
  | cons c m ih =>
    rw [List.pairwise_cons] at h
    have hc : c.1 ≠ a := hne c (by simp)
    have ih := ih h.2 fun d hd => hne d (by simp [hd])
    unfold Memory.insert
    split
    · refine List.pairwise_cons.mpr ⟨fun d hd => ?_, List.pairwise_cons.mpr h⟩
      rcases List.mem_cons.mp hd with rfl | hd
      · assumption
      · have := h.1 d hd; simp_all; omega
    · refine List.pairwise_cons.mpr ⟨fun d hd => ?_, ih⟩
      rcases Memory.mem_insert.mp hd with rfl | hd
      · simp_all; omega
      · exact h.1 d hd

theorem Memory.wf_nil : Memory.wf [] := by simp [Memory.wf]

/-- Every write on the port's addresses keeps the canonical form. -/
theorem Memory.wf_write {m : Memory} {a : Nat} (w : Word) (h : m.wf) (ha : a < 2 ^ 31) : (m.write a w).wf := by
  have hf : (m.filter fun cell => cell.1 != a).Pairwise fun p q => p.1 < q.1 :=
    h.1.sublist List.filter_sublist
  have hc : ∀ cell ∈ m.filter fun cell => cell.1 != a, cell.1 < 2 ^ 31 ∧ cell.2 ≠ unlistedWord :=
    fun cell hcell => h.2 cell (List.mem_of_mem_filter hcell)
  unfold Memory.write
  split
  · exact ⟨hf, hc⟩
  · refine ⟨Memory.insert_rising w hf fun cell hcell => by simpa using (List.mem_filter.mp hcell).2, fun cell hcell => ?_⟩
    rcases Memory.mem_insert.mp hcell with rfl | hcell
    · exact ⟨ha, ‹_›⟩
    · exact hc cell hcell

theorem State.memWrite_wf {s : State} (addr : Addr) (w : Word) (h : s.mem.wf) : (s.memWrite addr w).mem.wf :=
  Memory.wf_write w h addr.isLt

/-- A listed cell of a canonical memory is what its address reads as. -/
theorem Memory.read_of_mem {m : Memory} {a : Nat} {w : Word} (h : m.wf) (hm : (a, w) ∈ m) : m.read a = w := by
  induction m with
  | nil => simp at hm
  | cons c m ih =>
    obtain ⟨hp, hc⟩ := h
    rw [List.pairwise_cons] at hp
    rcases List.mem_cons.mp hm with rfl | hm
    · simp [Memory.read]
    · have hlt : c.1 < a := hp.1 _ hm
      have hne : c.1 ≠ a := by omega
      simp only [Memory.read, hne, if_false]
      exact ih ⟨hp.2, fun d hd => hc d (by simp [hd])⟩ hm

/-! ### The State's memory -/

@[simp] theorem State.memRead_memWrite_same (s : State) (addr : Addr) (w : Word) :
    (s.memWrite addr w).memRead addr = w := Memory.read_write_same _ _ _

theorem State.memRead_memWrite_other (s : State) {addr b : Addr} (w : Word) (h : b ≠ addr) :
    (s.memWrite addr w).memRead b = s.memRead b :=
  Memory.read_write_other _ w fun e => h (BitVec.eq_of_toNat_eq e)

/-- `ea` is the operand itself. -/
@[simp] theorem ea_toNat (operand : Operand) : (ea operand).toNat = operand.toNat := by
  have := operand.isLt
  simp [ea]; omega

/-- The read at `ea` is the read at the operand. -/
@[simp] theorem State.memRead_ea (s : State) (operand : Operand) :
    s.memRead (ea operand) = s.mem.read operand.toNat := by simp [State.memRead]

/-- A PC that passes the PC check is its own fetch address. -/
theorem fetchAddr_toNat {cfg : Config} {pc : Word} (h : pcInRange cfg pc = true) : (fetchAddr pc).toNat = pc.toNat := by
  have hpc : 0 ≤ pc.toInt := by simp [pcInRange] at h; exact h.1
  have hlt : pc.toNat < 2 ^ 31 := by
    have := pc.isLt
    rw [BitVec.toInt_eq_toNat_cond] at hpc
    split at hpc <;> omega
  simp [fetchAddr]; omega

/-- The fetch of a PC that passes the PC check. -/
theorem State.fetchWord_eq {s : State} (h : pcInRange s.cfg s.pc = true) : s.fetchWord = s.mem.read s.pc.toNat := by
  simp [State.fetchWord, State.memRead, fetchAddr_toNat h]

end Sys2Proof.Machine
end

