-- ==== Sys2Proof/Laws/State.lean ====
section
/-! SUPPORT. One lemma per field per update of State, so that no later proof unfolds a record update. -/
namespace Sys2Proof.Machine

variable (s : State)

/-! ### setA -/

@[simp] theorem State.setA_a (w : Word) : (s.setA w).a = w := rfl
@[simp] theorem State.setA_x (w : Word) : (s.setA w).x = s.x := rfl
@[simp] theorem State.setA_y (w : Word) : (s.setA w).y = s.y := rfl
@[simp] theorem State.setA_pc (w : Word) : (s.setA w).pc = s.pc := rfl
@[simp] theorem State.setA_c (w : Word) : (s.setA w).c = s.c := rfl
@[simp] theorem State.setA_v (w : Word) : (s.setA w).v = s.v := rfl
@[simp] theorem State.setA_stack (w : Word) : (s.setA w).stack = s.stack := rfl
@[simp] theorem State.setA_status (w : Word) : (s.setA w).status = s.status := rfl
@[simp] theorem State.setA_fault (w : Word) : (s.setA w).fault = s.fault := rfl
@[simp] theorem State.setA_unkCount (w : Word) : (s.setA w).unkCount = s.unkCount := rfl
@[simp] theorem State.setA_mem (w : Word) : (s.setA w).mem = s.mem := rfl
@[simp] theorem State.setA_cfg (w : Word) : (s.setA w).cfg = s.cfg := rfl

/-! ### setX -/

@[simp] theorem State.setX_a (w : Word) : (s.setX w).a = s.a := rfl
@[simp] theorem State.setX_x (w : Word) : (s.setX w).x = w := rfl
@[simp] theorem State.setX_y (w : Word) : (s.setX w).y = s.y := rfl
@[simp] theorem State.setX_pc (w : Word) : (s.setX w).pc = s.pc := rfl
@[simp] theorem State.setX_c (w : Word) : (s.setX w).c = s.c := rfl
@[simp] theorem State.setX_v (w : Word) : (s.setX w).v = s.v := rfl
@[simp] theorem State.setX_stack (w : Word) : (s.setX w).stack = s.stack := rfl
@[simp] theorem State.setX_status (w : Word) : (s.setX w).status = s.status := rfl
@[simp] theorem State.setX_fault (w : Word) : (s.setX w).fault = s.fault := rfl
@[simp] theorem State.setX_unkCount (w : Word) : (s.setX w).unkCount = s.unkCount := rfl
@[simp] theorem State.setX_mem (w : Word) : (s.setX w).mem = s.mem := rfl
@[simp] theorem State.setX_cfg (w : Word) : (s.setX w).cfg = s.cfg := rfl

/-! ### setY -/

@[simp] theorem State.setY_a (w : Word) : (s.setY w).a = s.a := rfl
@[simp] theorem State.setY_x (w : Word) : (s.setY w).x = s.x := rfl
@[simp] theorem State.setY_y (w : Word) : (s.setY w).y = w := rfl
@[simp] theorem State.setY_pc (w : Word) : (s.setY w).pc = s.pc := rfl
@[simp] theorem State.setY_c (w : Word) : (s.setY w).c = s.c := rfl
@[simp] theorem State.setY_v (w : Word) : (s.setY w).v = s.v := rfl
@[simp] theorem State.setY_stack (w : Word) : (s.setY w).stack = s.stack := rfl
@[simp] theorem State.setY_status (w : Word) : (s.setY w).status = s.status := rfl
@[simp] theorem State.setY_fault (w : Word) : (s.setY w).fault = s.fault := rfl
@[simp] theorem State.setY_unkCount (w : Word) : (s.setY w).unkCount = s.unkCount := rfl
@[simp] theorem State.setY_mem (w : Word) : (s.setY w).mem = s.mem := rfl
@[simp] theorem State.setY_cfg (w : Word) : (s.setY w).cfg = s.cfg := rfl

/-! ### setPc -/

@[simp] theorem State.setPc_a (w : Word) : (s.setPc w).a = s.a := rfl
@[simp] theorem State.setPc_x (w : Word) : (s.setPc w).x = s.x := rfl
@[simp] theorem State.setPc_y (w : Word) : (s.setPc w).y = s.y := rfl
@[simp] theorem State.setPc_pc (w : Word) : (s.setPc w).pc = w := rfl
@[simp] theorem State.setPc_c (w : Word) : (s.setPc w).c = s.c := rfl
@[simp] theorem State.setPc_v (w : Word) : (s.setPc w).v = s.v := rfl
@[simp] theorem State.setPc_stack (w : Word) : (s.setPc w).stack = s.stack := rfl
@[simp] theorem State.setPc_status (w : Word) : (s.setPc w).status = s.status := rfl
@[simp] theorem State.setPc_fault (w : Word) : (s.setPc w).fault = s.fault := rfl
@[simp] theorem State.setPc_unkCount (w : Word) : (s.setPc w).unkCount = s.unkCount := rfl
@[simp] theorem State.setPc_mem (w : Word) : (s.setPc w).mem = s.mem := rfl
@[simp] theorem State.setPc_cfg (w : Word) : (s.setPc w).cfg = s.cfg := rfl

/-! ### setC -/

@[simp] theorem State.setC_a (b : Bool) : (s.setC b).a = s.a := rfl
@[simp] theorem State.setC_x (b : Bool) : (s.setC b).x = s.x := rfl
@[simp] theorem State.setC_y (b : Bool) : (s.setC b).y = s.y := rfl
@[simp] theorem State.setC_pc (b : Bool) : (s.setC b).pc = s.pc := rfl
@[simp] theorem State.setC_c (b : Bool) : (s.setC b).c = b := rfl
@[simp] theorem State.setC_v (b : Bool) : (s.setC b).v = s.v := rfl
@[simp] theorem State.setC_stack (b : Bool) : (s.setC b).stack = s.stack := rfl
@[simp] theorem State.setC_status (b : Bool) : (s.setC b).status = s.status := rfl
@[simp] theorem State.setC_fault (b : Bool) : (s.setC b).fault = s.fault := rfl
@[simp] theorem State.setC_unkCount (b : Bool) : (s.setC b).unkCount = s.unkCount := rfl
@[simp] theorem State.setC_mem (b : Bool) : (s.setC b).mem = s.mem := rfl
@[simp] theorem State.setC_cfg (b : Bool) : (s.setC b).cfg = s.cfg := rfl

/-! ### setV -/

@[simp] theorem State.setV_a (b : Bool) : (s.setV b).a = s.a := rfl
@[simp] theorem State.setV_x (b : Bool) : (s.setV b).x = s.x := rfl
@[simp] theorem State.setV_y (b : Bool) : (s.setV b).y = s.y := rfl
@[simp] theorem State.setV_pc (b : Bool) : (s.setV b).pc = s.pc := rfl
@[simp] theorem State.setV_c (b : Bool) : (s.setV b).c = s.c := rfl
@[simp] theorem State.setV_v (b : Bool) : (s.setV b).v = b := rfl
@[simp] theorem State.setV_stack (b : Bool) : (s.setV b).stack = s.stack := rfl
@[simp] theorem State.setV_status (b : Bool) : (s.setV b).status = s.status := rfl
@[simp] theorem State.setV_fault (b : Bool) : (s.setV b).fault = s.fault := rfl
@[simp] theorem State.setV_unkCount (b : Bool) : (s.setV b).unkCount = s.unkCount := rfl
@[simp] theorem State.setV_mem (b : Bool) : (s.setV b).mem = s.mem := rfl
@[simp] theorem State.setV_cfg (b : Bool) : (s.setV b).cfg = s.cfg := rfl

/-! ### setStack -/

@[simp] theorem State.setStack_a (l : List Word) : (s.setStack l).a = s.a := rfl
@[simp] theorem State.setStack_x (l : List Word) : (s.setStack l).x = s.x := rfl
@[simp] theorem State.setStack_y (l : List Word) : (s.setStack l).y = s.y := rfl
@[simp] theorem State.setStack_pc (l : List Word) : (s.setStack l).pc = s.pc := rfl
@[simp] theorem State.setStack_c (l : List Word) : (s.setStack l).c = s.c := rfl
@[simp] theorem State.setStack_v (l : List Word) : (s.setStack l).v = s.v := rfl
@[simp] theorem State.setStack_stack (l : List Word) : (s.setStack l).stack = l := rfl
@[simp] theorem State.setStack_status (l : List Word) : (s.setStack l).status = s.status := rfl
@[simp] theorem State.setStack_fault (l : List Word) : (s.setStack l).fault = s.fault := rfl
@[simp] theorem State.setStack_unkCount (l : List Word) : (s.setStack l).unkCount = s.unkCount := rfl
@[simp] theorem State.setStack_mem (l : List Word) : (s.setStack l).mem = s.mem := rfl
@[simp] theorem State.setStack_cfg (l : List Word) : (s.setStack l).cfg = s.cfg := rfl

/-! ### memWrite -/

@[simp] theorem State.memWrite_a (addr : Addr) (w : Word) : (s.memWrite addr w).a = s.a := rfl
@[simp] theorem State.memWrite_x (addr : Addr) (w : Word) : (s.memWrite addr w).x = s.x := rfl
@[simp] theorem State.memWrite_y (addr : Addr) (w : Word) : (s.memWrite addr w).y = s.y := rfl
@[simp] theorem State.memWrite_pc (addr : Addr) (w : Word) : (s.memWrite addr w).pc = s.pc := rfl
@[simp] theorem State.memWrite_c (addr : Addr) (w : Word) : (s.memWrite addr w).c = s.c := rfl
@[simp] theorem State.memWrite_v (addr : Addr) (w : Word) : (s.memWrite addr w).v = s.v := rfl
@[simp] theorem State.memWrite_stack (addr : Addr) (w : Word) : (s.memWrite addr w).stack = s.stack := rfl
@[simp] theorem State.memWrite_status (addr : Addr) (w : Word) : (s.memWrite addr w).status = s.status := rfl
@[simp] theorem State.memWrite_fault (addr : Addr) (w : Word) : (s.memWrite addr w).fault = s.fault := rfl
@[simp] theorem State.memWrite_unkCount (addr : Addr) (w : Word) : (s.memWrite addr w).unkCount = s.unkCount := rfl
@[simp] theorem State.memWrite_mem (addr : Addr) (w : Word) : (s.memWrite addr w).mem = s.mem.write addr.toNat w := rfl
@[simp] theorem State.memWrite_cfg (addr : Addr) (w : Word) : (s.memWrite addr w).cfg = s.cfg := rfl

/-! ### updateCell -/

@[simp] theorem State.updateCell_a (addr : Addr) (f : Word → Word) : (s.updateCell addr f).a = s.a := rfl
@[simp] theorem State.updateCell_x (addr : Addr) (f : Word → Word) : (s.updateCell addr f).x = s.x := rfl
@[simp] theorem State.updateCell_y (addr : Addr) (f : Word → Word) : (s.updateCell addr f).y = s.y := rfl
@[simp] theorem State.updateCell_pc (addr : Addr) (f : Word → Word) : (s.updateCell addr f).pc = s.pc := rfl
@[simp] theorem State.updateCell_c (addr : Addr) (f : Word → Word) : (s.updateCell addr f).c = s.c := rfl
@[simp] theorem State.updateCell_v (addr : Addr) (f : Word → Word) : (s.updateCell addr f).v = s.v := rfl
@[simp] theorem State.updateCell_stack (addr : Addr) (f : Word → Word) : (s.updateCell addr f).stack = s.stack := rfl
@[simp] theorem State.updateCell_status (addr : Addr) (f : Word → Word) : (s.updateCell addr f).status = s.status := rfl
@[simp] theorem State.updateCell_fault (addr : Addr) (f : Word → Word) : (s.updateCell addr f).fault = s.fault := rfl
@[simp] theorem State.updateCell_unkCount (addr : Addr) (f : Word → Word) : (s.updateCell addr f).unkCount = s.unkCount := rfl
@[simp] theorem State.updateCell_mem (addr : Addr) (f : Word → Word) : (s.updateCell addr f).mem = s.mem.write addr.toNat (f (s.memRead addr)) := rfl
@[simp] theorem State.updateCell_cfg (addr : Addr) (f : Word → Word) : (s.updateCell addr f).cfg = s.cfg := rfl

/-! ### placeWord -/

@[simp] theorem State.placeWord_a (w : Word) : (s.placeWord w).a = s.a := rfl
@[simp] theorem State.placeWord_x (w : Word) : (s.placeWord w).x = s.x := rfl
@[simp] theorem State.placeWord_y (w : Word) : (s.placeWord w).y = s.y := rfl
@[simp] theorem State.placeWord_pc (w : Word) : (s.placeWord w).pc = s.pc := rfl
@[simp] theorem State.placeWord_c (w : Word) : (s.placeWord w).c = s.c := rfl
@[simp] theorem State.placeWord_v (w : Word) : (s.placeWord w).v = s.v := rfl
@[simp] theorem State.placeWord_stack (w : Word) : (s.placeWord w).stack = s.stack := rfl
@[simp] theorem State.placeWord_status (w : Word) : (s.placeWord w).status = s.status := rfl
@[simp] theorem State.placeWord_fault (w : Word) : (s.placeWord w).fault = s.fault := rfl
@[simp] theorem State.placeWord_unkCount (w : Word) : (s.placeWord w).unkCount = s.unkCount := rfl
@[simp] theorem State.placeWord_mem (w : Word) : (s.placeWord w).mem = s.mem.write (fetchAddr s.pc).toNat w := rfl
@[simp] theorem State.placeWord_cfg (w : Word) : (s.placeWord w).cfg = s.cfg := rfl

/-! ### replaceTop -/

@[simp] theorem State.replaceTop_a (w : Word) : (s.replaceTop w).a = s.a := rfl
@[simp] theorem State.replaceTop_x (w : Word) : (s.replaceTop w).x = s.x := rfl
@[simp] theorem State.replaceTop_y (w : Word) : (s.replaceTop w).y = s.y := rfl
@[simp] theorem State.replaceTop_pc (w : Word) : (s.replaceTop w).pc = s.pc := rfl
@[simp] theorem State.replaceTop_c (w : Word) : (s.replaceTop w).c = s.c := rfl
@[simp] theorem State.replaceTop_v (w : Word) : (s.replaceTop w).v = s.v := rfl
@[simp] theorem State.replaceTop_stack (w : Word) : (s.replaceTop w).stack = s.stack.dropLast ++ [w] := rfl
@[simp] theorem State.replaceTop_status (w : Word) : (s.replaceTop w).status = s.status := rfl
@[simp] theorem State.replaceTop_fault (w : Word) : (s.replaceTop w).fault = s.fault := rfl
@[simp] theorem State.replaceTop_unkCount (w : Word) : (s.replaceTop w).unkCount = s.unkCount := rfl
@[simp] theorem State.replaceTop_mem (w : Word) : (s.replaceTop w).mem = s.mem := rfl
@[simp] theorem State.replaceTop_cfg (w : Word) : (s.replaceTop w).cfg = s.cfg := rfl

/-! ### clearStack -/

@[simp] theorem State.clearStack_a : (s.clearStack).a = s.a := rfl
@[simp] theorem State.clearStack_x : (s.clearStack).x = s.x := rfl
@[simp] theorem State.clearStack_y : (s.clearStack).y = s.y := rfl
@[simp] theorem State.clearStack_pc : (s.clearStack).pc = s.pc := rfl
@[simp] theorem State.clearStack_c : (s.clearStack).c = s.c := rfl
@[simp] theorem State.clearStack_v : (s.clearStack).v = s.v := rfl
@[simp] theorem State.clearStack_stack : (s.clearStack).stack = [] := rfl
@[simp] theorem State.clearStack_status : (s.clearStack).status = s.status := rfl
@[simp] theorem State.clearStack_fault : (s.clearStack).fault = s.fault := rfl
@[simp] theorem State.clearStack_unkCount : (s.clearStack).unkCount = s.unkCount := rfl
@[simp] theorem State.clearStack_mem : (s.clearStack).mem = s.mem := rfl
@[simp] theorem State.clearStack_cfg : (s.clearStack).cfg = s.cfg := rfl

/-! ### writeShift -/

@[simp] theorem State.writeShift_a (r : ShiftResult) : (s.writeShift r).a = r.value := rfl
@[simp] theorem State.writeShift_x (r : ShiftResult) : (s.writeShift r).x = s.x := rfl
@[simp] theorem State.writeShift_y (r : ShiftResult) : (s.writeShift r).y = s.y := rfl
@[simp] theorem State.writeShift_pc (r : ShiftResult) : (s.writeShift r).pc = s.pc := rfl
@[simp] theorem State.writeShift_c (r : ShiftResult) : (s.writeShift r).c = r.carry := rfl
@[simp] theorem State.writeShift_v (r : ShiftResult) : (s.writeShift r).v = s.v := rfl
@[simp] theorem State.writeShift_stack (r : ShiftResult) : (s.writeShift r).stack = s.stack := rfl
@[simp] theorem State.writeShift_status (r : ShiftResult) : (s.writeShift r).status = s.status := rfl
@[simp] theorem State.writeShift_fault (r : ShiftResult) : (s.writeShift r).fault = s.fault := rfl
@[simp] theorem State.writeShift_unkCount (r : ShiftResult) : (s.writeShift r).unkCount = s.unkCount := rfl
@[simp] theorem State.writeShift_mem (r : ShiftResult) : (s.writeShift r).mem = s.mem := rfl
@[simp] theorem State.writeShift_cfg (r : ShiftResult) : (s.writeShift r).cfg = s.cfg := rfl

/-! ### takeFault -/

@[simp] theorem State.takeFault_a (k : FaultKind) (o : Option Opcode) : (s.takeFault k o).a = s.a := rfl
@[simp] theorem State.takeFault_x (k : FaultKind) (o : Option Opcode) : (s.takeFault k o).x = s.x := rfl
@[simp] theorem State.takeFault_y (k : FaultKind) (o : Option Opcode) : (s.takeFault k o).y = s.y := rfl
@[simp] theorem State.takeFault_pc (k : FaultKind) (o : Option Opcode) : (s.takeFault k o).pc = s.pc := rfl
@[simp] theorem State.takeFault_c (k : FaultKind) (o : Option Opcode) : (s.takeFault k o).c = s.c := rfl
@[simp] theorem State.takeFault_v (k : FaultKind) (o : Option Opcode) : (s.takeFault k o).v = s.v := rfl
@[simp] theorem State.takeFault_stack (k : FaultKind) (o : Option Opcode) : (s.takeFault k o).stack = s.stack := rfl
@[simp] theorem State.takeFault_status (k : FaultKind) (o : Option Opcode) : (s.takeFault k o).status = .faulted := rfl
@[simp] theorem State.takeFault_fault (k : FaultKind) (o : Option Opcode) : (s.takeFault k o).fault = some { kind := k, opcode := o, pc := s.pc } := rfl
@[simp] theorem State.takeFault_unkCount (k : FaultKind) (o : Option Opcode) : (s.takeFault k o).unkCount = s.unkCount := rfl
@[simp] theorem State.takeFault_mem (k : FaultKind) (o : Option Opcode) : (s.takeFault k o).mem = s.mem := rfl
@[simp] theorem State.takeFault_cfg (k : FaultKind) (o : Option Opcode) : (s.takeFault k o).cfg = s.cfg := rfl

/-! ### halt -/

@[simp] theorem State.halt_a : (s.halt).a = s.a := rfl
@[simp] theorem State.halt_x : (s.halt).x = s.x := rfl
@[simp] theorem State.halt_y : (s.halt).y = s.y := rfl
@[simp] theorem State.halt_pc : (s.halt).pc = if s.cfg.haltPcAdvance then s.pc + 1 else s.pc := rfl
@[simp] theorem State.halt_c : (s.halt).c = s.c := rfl
@[simp] theorem State.halt_v : (s.halt).v = s.v := rfl
@[simp] theorem State.halt_stack : (s.halt).stack = s.stack := rfl
@[simp] theorem State.halt_status : (s.halt).status = .halted := rfl
@[simp] theorem State.halt_fault : (s.halt).fault = s.fault := rfl
@[simp] theorem State.halt_unkCount : (s.halt).unkCount = s.unkCount := rfl
@[simp] theorem State.halt_mem : (s.halt).mem = s.mem := rfl
@[simp] theorem State.halt_cfg : (s.halt).cfg = s.cfg := rfl

/-! ### coreReset -/

@[simp] theorem State.coreReset_a : (s.coreReset).a = 0 := rfl
@[simp] theorem State.coreReset_x : (s.coreReset).x = 0 := rfl
@[simp] theorem State.coreReset_y : (s.coreReset).y = 0 := rfl
@[simp] theorem State.coreReset_pc : (s.coreReset).pc = 0 := rfl
@[simp] theorem State.coreReset_c : (s.coreReset).c = false := rfl
@[simp] theorem State.coreReset_v : (s.coreReset).v = false := rfl
@[simp] theorem State.coreReset_stack : (s.coreReset).stack = [] := rfl
@[simp] theorem State.coreReset_status : (s.coreReset).status = .running := rfl
@[simp] theorem State.coreReset_fault : (s.coreReset).fault = none := rfl
@[simp] theorem State.coreReset_unkCount : (s.coreReset).unkCount = 0 := rfl
@[simp] theorem State.coreReset_mem : (s.coreReset).mem = s.mem := rfl
@[simp] theorem State.coreReset_cfg : (s.coreReset).cfg = s.cfg := rfl

/-! ### branchIf -/

@[simp] theorem State.branchIf_a (cond : Bool) (operand : Operand) : (s.branchIf cond operand).a = s.a := by
  unfold State.branchIf; split <;> rfl
@[simp] theorem State.branchIf_x (cond : Bool) (operand : Operand) : (s.branchIf cond operand).x = s.x := by
  unfold State.branchIf; split <;> rfl
@[simp] theorem State.branchIf_y (cond : Bool) (operand : Operand) : (s.branchIf cond operand).y = s.y := by
  unfold State.branchIf; split <;> rfl
@[simp] theorem State.branchIf_pc (cond : Bool) (operand : Operand) : (s.branchIf cond operand).pc = if cond then branchWrite operand else s.pc := by
  unfold State.branchIf; split <;> rfl
@[simp] theorem State.branchIf_c (cond : Bool) (operand : Operand) : (s.branchIf cond operand).c = s.c := by
  unfold State.branchIf; split <;> rfl
@[simp] theorem State.branchIf_v (cond : Bool) (operand : Operand) : (s.branchIf cond operand).v = s.v := by
  unfold State.branchIf; split <;> rfl
@[simp] theorem State.branchIf_stack (cond : Bool) (operand : Operand) : (s.branchIf cond operand).stack = s.stack := by
  unfold State.branchIf; split <;> rfl
@[simp] theorem State.branchIf_status (cond : Bool) (operand : Operand) : (s.branchIf cond operand).status = s.status := by
  unfold State.branchIf; split <;> rfl
@[simp] theorem State.branchIf_fault (cond : Bool) (operand : Operand) : (s.branchIf cond operand).fault = s.fault := by
  unfold State.branchIf; split <;> rfl
@[simp] theorem State.branchIf_unkCount (cond : Bool) (operand : Operand) : (s.branchIf cond operand).unkCount = s.unkCount := by
  unfold State.branchIf; split <;> rfl
@[simp] theorem State.branchIf_mem (cond : Bool) (operand : Operand) : (s.branchIf cond operand).mem = s.mem := by
  unfold State.branchIf; split <;> rfl
@[simp] theorem State.branchIf_cfg (cond : Bool) (operand : Operand) : (s.branchIf cond operand).cfg = s.cfg := by
  unfold State.branchIf; split <;> rfl

/-! ### advance -/

@[simp] theorem State.advance_a (op : Op) : (s.advance op).a = s.a := by
  unfold State.advance; split <;> rfl
@[simp] theorem State.advance_x (op : Op) : (s.advance op).x = s.x := by
  unfold State.advance; split <;> rfl
@[simp] theorem State.advance_y (op : Op) : (s.advance op).y = s.y := by
  unfold State.advance; split <;> rfl
@[simp] theorem State.advance_pc (op : Op) : (s.advance op).pc = if op = .rts ∧ s.cfg.rtsIncrement = false then s.pc else s.pc + 1 := by
  unfold State.advance; split <;> rfl
@[simp] theorem State.advance_c (op : Op) : (s.advance op).c = s.c := by
  unfold State.advance; split <;> rfl
@[simp] theorem State.advance_v (op : Op) : (s.advance op).v = s.v := by
  unfold State.advance; split <;> rfl
@[simp] theorem State.advance_stack (op : Op) : (s.advance op).stack = s.stack := by
  unfold State.advance; split <;> rfl
@[simp] theorem State.advance_status (op : Op) : (s.advance op).status = s.status := by
  unfold State.advance; split <;> rfl
@[simp] theorem State.advance_fault (op : Op) : (s.advance op).fault = s.fault := by
  unfold State.advance; split <;> rfl
@[simp] theorem State.advance_unkCount (op : Op) : (s.advance op).unkCount = s.unkCount := by
  unfold State.advance; split <;> rfl
@[simp] theorem State.advance_mem (op : Op) : (s.advance op).mem = s.mem := by
  unfold State.advance; split <;> rfl
@[simp] theorem State.advance_cfg (op : Op) : (s.advance op).cfg = s.cfg := by
  unfold State.advance; split <;> rfl

end Sys2Proof.Machine
end

