-- ==== Sys2Proof/Laws/Ops.lean ====
section
/-! SUPPORT. What each shared operation can do, said once: the stack controller, the end of an instruction, the PC logic. -/
namespace Sys2Proof.Machine

/-! ### Stack controller -/

theorem State.push_ok {s : State} (w : Word) (h : s.cfg.stackCapacity ≠ some s.stack.length) :
    s.push w = .ok (s.setStack (s.stack ++ [w])) := by simp [State.push, State.stackSize, h]

theorem State.push_full {s : State} (w : Word) (h : s.cfg.stackCapacity = some s.stack.length) :
    s.push w = .error .stackOverflow := by simp [State.push, State.stackSize, h]

/-- All that `push` can do. -/
theorem State.push_cases (s : State) (w : Word) :
    (s.cfg.stackCapacity = some s.stack.length ∧ s.push w = .error .stackOverflow) ∨
    (s.cfg.stackCapacity ≠ some s.stack.length ∧ s.push w = .ok (s.setStack (s.stack ++ [w]))) := by
  by_cases h : s.cfg.stackCapacity = some s.stack.length
  · exact .inl ⟨h, State.push_full w h⟩
  · exact .inr ⟨h, State.push_ok w h⟩

theorem State.top_empty {s : State} (h : s.stack = []) : s.top = .error .stackUnderflow := by simp [State.top, h]

theorem State.top_append {s : State} {rest : List Word} {w : Word} (h : s.stack = rest ++ [w]) :
    s.top = .ok w := by simp [State.top, h]

theorem State.pop_empty {s : State} (h : s.stack = []) : s.pop = .error .stackUnderflow := by simp [State.pop, h]

theorem State.pop_append {s : State} {rest : List Word} {w : Word} (h : s.stack = rest ++ [w]) :
    s.pop = .ok (w, s.setStack rest) := by simp [State.pop, h]

/-- A stack is empty, or it has a top. -/
theorem State.stack_cases (s : State) : s.stack = [] ∨ ∃ rest w, s.stack = rest ++ [w] :=
  (List.eq_nil_or_concat' s.stack)

theorem State.popInto_empty {s : State} (f : State → Word → State) (h : s.stack = []) :
    s.popInto f = .error .stackUnderflow := by simp [State.popInto, State.pop_empty h]

theorem State.popInto_append {s : State} {rest : List Word} {w : Word} (f : State → Word → State)
    (h : s.stack = rest ++ [w]) : s.popInto f = .ok (f (s.setStack rest) w) := by
  simp [State.popInto, State.pop_append h]

/-- All that `popInto` can do. -/
theorem State.popInto_cases (s : State) (f : State → Word → State) :
    (s.stack = [] ∧ s.popInto f = .error .stackUnderflow) ∨
    (∃ rest w, s.stack = rest ++ [w] ∧ s.popInto f = .ok (f (s.setStack rest) w)) := by
  rcases s.stack_cases with h | ⟨rest, w, h⟩
  · exact .inl ⟨h, State.popInto_empty f h⟩
  · exact .inr ⟨rest, w, h, State.popInto_append f h⟩

/-- Padding that stays within a finite capacity, or starts above it, appends that many zeros. -/
theorem State.pushZeros_ok {n : Nat} {s : State}
    (h : ∀ k, s.cfg.stackCapacity = some k → k < s.stack.length ∨ s.stack.length + n ≤ k) :
    State.pushZeros n s = .ok (s.setStack (s.stack ++ List.replicate n 0)) := by
  induction n generalizing s with
  | zero => simp [State.pushZeros, State.setStack]
  | succ n ih =>
    have hne : s.cfg.stackCapacity ≠ some s.stack.length := by
      intro hk; have := h _ hk; omega
    have step := ih (s := s.setStack (s.stack ++ [0])) (by
      intro k hk
      have := h k hk
      simp; omega)
    simp only [State.pushZeros, State.push_ok 0 hne, step]
    simp [State.setStack, List.replicate_succ]

/-- Padding past a finite capacity overflows. -/
theorem State.pushZeros_overflow {n k : Nat} {s : State} (hk : s.cfg.stackCapacity = some k)
    (hle : s.stack.length ≤ k) (hn : k < s.stack.length + n) : State.pushZeros n s = .error .stackOverflow := by
  induction n generalizing s with
  | zero => omega
  | succ n ih =>
    by_cases h : k = s.stack.length
    · simp only [State.pushZeros, State.push_full 0 (hk.trans (by rw [h]))]
    · have hne : s.cfg.stackCapacity ≠ some s.stack.length := by rw [hk]; simpa using h
      simp only [State.pushZeros, State.push_ok 0 hne]
      exact ih (by simpa using hk) (by simp; omega) (by simp; omega)

/-- A successful padding leaves every field but the stack. -/
theorem State.pushZeros_cases (n : Nat) (s : State) :
    State.pushZeros n s = .error .stackOverflow ∧
        (∃ k, s.cfg.stackCapacity = some k ∧ s.stack.length ≤ k ∧ k < s.stack.length + n) ∨
      State.pushZeros n s = .ok (s.setStack (s.stack ++ List.replicate n 0)) ∧
        ∀ k, s.cfg.stackCapacity = some k → k < s.stack.length ∨ s.stack.length + n ≤ k := by
  by_cases h : ∀ k, s.cfg.stackCapacity = some k → k < s.stack.length ∨ s.stack.length + n ≤ k
  · exact .inr ⟨State.pushZeros_ok h, h⟩
  · push Not at h
    obtain ⟨k, hk, h1, h2⟩ := h
    exact .inl ⟨State.pushZeros_overflow hk h1 h2, k, hk, h1, h2⟩

/-- A Word that is not negative has one value, signed or not. -/
theorem toNat_of_nonneg {w : Word} (h : 0 ≤ w.toInt) : (w.toNat : Int) = w.toInt := by
  rw [BitVec.toInt_eq_toNat_cond] at *
  split at h <;> simp_all
  have := w.isLt
  omega

/-- All that `setSize` can do (10_state.md R44). -/
theorem State.setSize_cases (s : State) (n : Word) :
    (n.toInt < 0 ∧ s.setSize n = .error .stackSizeRange) ∨
    (0 ≤ n.toInt ∧ n.toInt ≤ s.stack.length ∧ s.setSize n = .ok (s.setStack (s.stack.take n.toNat))) ∨
    ((s.stack.length : Int) < n.toInt ∧ s.cfg.txsGrowPolicy = .fault ∧ s.setSize n = .error .stackSizeRange) ∨
    ((s.stack.length : Int) < n.toInt ∧ s.cfg.txsGrowPolicy = .noop ∧ s.setSize n = .ok s) ∨
    ((s.stack.length : Int) < n.toInt ∧ s.cfg.txsGrowPolicy = .padZero ∧
      s.setSize n = State.pushZeros (n.toNat - s.stack.length) s) := by
  unfold State.setSize State.stackSize sval uval
  by_cases h0 : n.toInt < 0
  · simp [h0]
  by_cases h1 : n.toInt ≤ s.stack.length
  · simp [h0, h1]; omega
  · cases hp : s.cfg.txsGrowPolicy <;> simp [h0, h1] <;> omega

/-! ### The end of an instruction -/

@[simp] theorem endInstr_ok (op : Op) (s t : State) : endInstr op s (.ok t) = .next (t.advance op) := rfl

@[simp] theorem endInstr_error (op : Op) (s : State) (k : FaultKind) :
    endInstr op s (.error k) = .next (s.takeFault k (some (s.cfg.opcodeMap.number op))) := rfl

/-- All that the end of an instruction can do. -/
theorem endInstr_cases {op : Op} {s t : State} {r : Except FaultKind State} (h : endInstr op s r = .next t) :
    (∃ k, r = .error k ∧ t = s.takeFault k (some (s.cfg.opcodeMap.number op))) ∨
    (∃ u, r = .ok u ∧ t = u.advance op) := by
  cases r with
  | error k => exact .inl ⟨k, rfl, by simpa using h.symm⟩
  | ok u => exact .inr ⟨u, rfl, by simpa using h.symm⟩

/-- Every operation but RTS is followed by the increment. -/
theorem State.advance_of_ne {op : Op} (s : State) (h : op ≠ .rts) : s.advance op = s.setPc (s.pc + 1) := by
  simp [State.advance, h]

theorem State.advance_rts (s : State) :
    s.advance .rts = s.setPc (if s.cfg.rtsIncrement then s.pc + 1 else s.pc) := by
  cases h : s.cfg.rtsIncrement <;> simp [State.advance, h, State.setPc]

/-- The increment after a taken-branch write lands on the operand (45_control.md R210). -/
@[simp] theorem branchWrite_add_one (operand : Operand) : branchWrite operand + 1#32 = operand.setWidth 32 := by
  simp [branchWrite]

/-- A branch and its increment: the operand, or the next word. -/
theorem State.branchIf_advance (s : State) (cond : Bool) (operand : Operand) {op : Op} (h : op ≠ .rts) :
    (s.branchIf cond operand).advance op = s.setPc (if cond then operand.setWidth 32 else s.pc + 1) := by
  rw [State.advance_of_ne _ h]
  cases cond <;> simp [State.branchIf, State.setPc]

/-! ### The shared cell -/

theorem State.updateIndex_registers {s : State} (r : State) (f : Word → Word)
    (h : s.cfg.indexStorage = .registers) : s.updateIndex r f = r := by simp [State.updateIndex, h]

theorem State.updateIndex_shared {s : State} (r : State) (f : Word → Word)
    (h : s.cfg.indexStorage = .sharedMemory) : s.updateIndex r f = s.updateCell (aliasAddr s.cfg) f := by
  simp [State.updateIndex, h]

end Sys2Proof.Machine
end

