-- ==== Sys2Proof/Laws/PerInstr.lean ====
section
/-! SUPPORT. The statements made per instruction. -/
namespace Sys2Proof.Laws.EncodedFields

/-- An instruction's word holds a zero high byte, its operation's number and its operand, and the operation with that operand is the instruction again (30_encoding.md R80, R91). -/
def Statement (i : Instr) : Prop :=
  (∀ cfg : Config, hiField (encode cfg i) = 0 ∧ opcField (encode cfg i) = cfg.opcodeMap.number i.op ∧
    operandField (encode cfg i) = i.operand) ∧
  i.op.withOperand i.operand = i

/-- Every instruction, once. -/
theorem of_instr (i : Instr) : Statement i :=
  ⟨fun cfg => ⟨by simp [encode], by simp [encode], by simp [encode]⟩, by simp⟩

theorem halt : Statement .halt := of_instr _
theorem lda (operand : Operand) : Statement (.lda operand) := of_instr _
theorem sta (operand : Operand) : Statement (.sta operand) := of_instr _
theorem ldx (operand : Operand) : Statement (.ldx operand) := of_instr _
theorem ldy (operand : Operand) : Statement (.ldy operand) := of_instr _
theorem stx : Statement .stx := of_instr _
theorem sty : Statement .sty := of_instr _
theorem add (operand : Operand) : Statement (.add operand) := of_instr _
theorem sub (operand : Operand) : Statement (.sub operand) := of_instr _
theorem adc (operand : Operand) : Statement (.adc operand) := of_instr _
theorem sbc (operand : Operand) : Statement (.sbc operand) := of_instr _
theorem and (operand : Operand) : Statement (.and operand) := of_instr _
theorem ora (operand : Operand) : Statement (.ora operand) := of_instr _
theorem eor (operand : Operand) : Statement (.eor operand) := of_instr _
theorem asl : Statement .asl := of_instr _
theorem lsr : Statement .lsr := of_instr _
theorem rol : Statement .rol := of_instr _
theorem ror : Statement .ror := of_instr _
theorem cmp (operand : Operand) : Statement (.cmp operand) := of_instr _
theorem cpx (operand : Operand) : Statement (.cpx operand) := of_instr _
theorem cpy (operand : Operand) : Statement (.cpy operand) := of_instr _
theorem inc (operand : Operand) : Statement (.inc operand) := of_instr _
theorem dec (operand : Operand) : Statement (.dec operand) := of_instr _
theorem inx : Statement .inx := of_instr _
theorem iny : Statement .iny := of_instr _
theorem dex : Statement .dex := of_instr _
theorem dey : Statement .dey := of_instr _
theorem pha : Statement .pha := of_instr _
theorem pla : Statement .pla := of_instr _
theorem del : Statement .del := of_instr _
theorem php : Statement .php := of_instr _
theorem plp : Statement .plp := of_instr _
theorem jmp (operand : Operand) : Statement (.jmp operand) := of_instr _
theorem beq (operand : Operand) : Statement (.beq operand) := of_instr _
theorem bne (operand : Operand) : Statement (.bne operand) := of_instr _
theorem bmi (operand : Operand) : Statement (.bmi operand) := of_instr _
theorem bpl (operand : Operand) : Statement (.bpl operand) := of_instr _
theorem bcc (operand : Operand) : Statement (.bcc operand) := of_instr _
theorem bcs (operand : Operand) : Statement (.bcs operand) := of_instr _
theorem bvc (operand : Operand) : Statement (.bvc operand) := of_instr _
theorem bvs (operand : Operand) : Statement (.bvs operand) := of_instr _
theorem loop (operand : Operand) : Statement (.loop operand) := of_instr _
theorem jsr (operand : Operand) : Statement (.jsr operand) := of_instr _
theorem rts : Statement .rts := of_instr _
theorem tax : Statement .tax := of_instr _
theorem tay : Statement .tay := of_instr _
theorem txa : Statement .txa := of_instr _
theorem tya : Statement .tya := of_instr _
theorem tsx : Statement .tsx := of_instr _
theorem txs : Statement .txs := of_instr _
theorem clc : Statement .clc := of_instr _
theorem sec : Statement .sec := of_instr _
theorem clv : Statement .clv := of_instr _
theorem cld : Statement .cld := of_instr _
theorem cli : Statement .cli := of_instr _
theorem sed : Statement .sed := of_instr _
theorem sei : Statement .sei := of_instr _
theorem nop : Statement .nop := of_instr _
theorem rti : Statement .rti := of_instr _
theorem bit : Statement .bit := of_instr _

end Sys2Proof.Laws.EncodedFields
end

