-- ==== Sys2Proof/Laws/Step.lean ====
section
/-! SUPPORT. What an instruction and a step can do, said once. -/
namespace Sys2Proof.Machine

/-- What every execute phase that succeeds keeps: the run-control state and the parameters, the canonical memory, the bound of a finite stack, and a V that is false under `V_RULE = never`. -/
structure State.Keeps (u s : State) : Prop where
  status : u.status = s.status
  fault : u.fault = s.fault
  unkCount : u.unkCount = s.unkCount
  cfg : u.cfg = s.cfg
  memory : s.mem.wf → u.mem.wf
  depth : ∀ n, s.cfg.stackCapacity = some n → s.stack.length ≤ n → u.stack.length ≤ n
  overflow : s.cfg.vRule = .never → s.v = false → u.v = false

/-- A write of registers, C and the PC alone keeps all of it. -/
theorem State.Keeps.of_same {u s : State} (h1 : u.status = s.status) (h2 : u.fault = s.fault)
    (h3 : u.unkCount = s.unkCount) (h4 : u.cfg = s.cfg) (h5 : u.mem = s.mem) (h6 : u.stack = s.stack)
    (h7 : u.v = s.v) : u.Keeps s :=
  ⟨h1, h2, h3, h4, fun h => h5 ▸ h, fun _ _ h => h6 ▸ h, fun _ h => h7 ▸ h⟩

theorem State.Keeps.trans {u t s : State} (h : u.Keeps t) (k : t.Keeps s) : u.Keeps s where
  status := h.status.trans k.status
  fault := h.fault.trans k.fault
  unkCount := h.unkCount.trans k.unkCount
  cfg := h.cfg.trans k.cfg
  memory m := h.memory (k.memory m)
  depth n hn hd := h.depth n (k.cfg ▸ hn) (k.depth n hn hd)
  overflow hv h0 := h.overflow (k.cfg ▸ hv) (k.overflow hv h0)

theorem State.Keeps.memWrite (s : State) (addr : Addr) (w : Word) : (s.memWrite addr w).Keeps s where
  status := rfl
  fault := rfl
  unkCount := rfl
  cfg := rfl
  memory := State.memWrite_wf addr w
  depth _ _ h := h
  overflow _ h := h

theorem State.Keeps.setStack {s : State} {l : List Word}
    (h : ∀ n, s.cfg.stackCapacity = some n → s.stack.length ≤ n → l.length ≤ n) : (s.setStack l).Keeps s where
  status := rfl
  fault := rfl
  unkCount := rfl
  cfg := rfl
  memory h := h
  depth := h
  overflow _ h := h

theorem State.Keeps.branchIf (s : State) (cond : Bool) (v : Operand) : (s.branchIf cond v).Keeps s :=
  .of_same (by simp) (by simp) (by simp) (by simp) (by simp) (by simp) (by simp)

theorem State.Keeps.advance (s : State) (op : Op) : (s.advance op).Keeps s :=
  .of_same (by simp) (by simp) (by simp) (by simp) (by simp) (by simp) (by simp)

theorem State.Keeps.setV (s : State) (new : Bool) : (s.setV (overflowUnder s.cfg.vRule new s.v)).Keeps s where
  status := rfl
  fault := rfl
  unkCount := rfl
  cfg := rfl
  memory h := h
  depth _ _ h := h
  overflow hv h := by simp [hv, overflowUnder, h]

/-- The kinds an execute phase can raise (60_exceptions.md R300, R305). -/
def FaultKind.OfPhase (k : FaultKind) (s : State) : Prop :=
  k = .stackUnderflow ∨ k = .stackSizeRange ∨ k = .stackOverflow ∧ s.cfg.stackCapacity ≠ none

/-- An execute phase begun in `s`: it raises one of its kinds, or it keeps what every phase keeps. -/
def PhaseOf (s : State) : Except FaultKind State → Prop
  | .error k => k.OfPhase s
  | .ok u => u.Keeps s

theorem PhaseOf.ok {s u : State} (h : u.Keeps s) : PhaseOf s (.ok u) := h

theorem PhaseOf.push (s : State) (w : Word) : PhaseOf s (s.push w) := by
  rcases s.push_cases w with ⟨hc, h⟩ | ⟨hc, h⟩ <;> rw [h]
  · exact .inr (.inr ⟨rfl, by simp [hc]⟩)
  · refine State.Keeps.setStack fun n hn hd => ?_
    have : s.stack.length ≠ n := fun e => hc (e ▸ hn)
    simp; omega

theorem PhaseOf.popInto (s : State) (f : State → Word → State) (hf : ∀ t w, (f t w).Keeps t) :
    PhaseOf s (s.popInto f) := by
  rcases s.popInto_cases f with ⟨-, h⟩ | ⟨rest, w, hs, h⟩ <;> rw [h]
  · exact .inl rfl
  · exact (hf _ w).trans (.setStack fun n _ hd => by simp [hs] at hd; omega)

theorem PhaseOf.setSize (s : State) (n : Word) : PhaseOf s (s.setSize n) := by
  rcases s.setSize_cases n with ⟨-, h⟩ | ⟨-, -, h⟩ | ⟨-, -, h⟩ | ⟨-, -, h⟩ | ⟨-, -, h⟩ <;> rw [h]
  · exact .inr (.inl rfl)
  · exact State.Keeps.setStack fun k _ hd => by simp; omega
  · exact .inr (.inl rfl)
  · exact State.Keeps.of_same rfl rfl rfl rfl rfl rfl rfl
  · rcases State.pushZeros_cases (n.toNat - s.stack.length) s with ⟨h, k, hk, -⟩ | ⟨h, hb⟩ <;> rw [h]
    · exact .inr (.inr ⟨rfl, by simp [hk]⟩)
    · refine State.Keeps.setStack fun k hk hd => ?_
      have := hb k hk
      simp; omega

theorem PhaseOf.loop (s : State) (v : Operand) : PhaseOf s (s.loopPhase v) := by
  rcases s.stack_cases with h | ⟨rest, w, h⟩
  · rw [State.loopPhase, State.top_empty h]; exact .inl rfl
  · rw [State.loopPhase, State.top_append h]
    simp only []
    split
    · exact (State.Keeps.branchIf _ true v).trans (.setStack fun n _ hd => by simpa [h] using hd)
    · exact .popInto s _ fun _ _ => .of_same rfl rfl rfl rfl rfl rfl rfl

theorem PhaseOf.jsr (s : State) (w : Word) (v : Operand) :
    PhaseOf s ((s.push w).map fun t => t.branchIf true v) := by
  have hp := PhaseOf.push s w
  cases h : s.push w with
  | error k => rw [h] at hp; exact hp
  | ok t => rw [h] at hp; exact (State.Keeps.branchIf t true v).trans hp

theorem PhaseOf.updateIndex {s r : State} (f : Word → Word) (hr : r.Keeps s) :
    PhaseOf s (.ok (s.updateIndex r f)) := by
  cases h : s.cfg.indexStorage
  · rw [State.updateIndex_registers r f h]; exact hr
  · rw [State.updateIndex_shared r f h]; exact State.Keeps.memWrite s _ _

/-- Every instruction but HALT ends an execute phase. -/
theorem exec_phase (i : Instr) (s : State) (hi : i ≠ .halt) : ∃ r, exec i s = endInstr i.op s r ∧ PhaseOf s r := by
  cases i with
  | halt => exact absurd rfl hi
  | stx => exact ⟨_, rfl, .push s _⟩
  | sty => exact ⟨_, rfl, .push s _⟩
  | pha => exact ⟨_, rfl, .push s _⟩
  | php => exact ⟨_, rfl, .push s _⟩
  | pla => exact ⟨_, rfl, .popInto s _ fun _ _ => .of_same rfl rfl rfl rfl rfl rfl rfl⟩
  | plp => exact ⟨_, rfl, .popInto s _ fun _ _ => .of_same rfl rfl rfl rfl rfl rfl rfl⟩
  | del => exact ⟨_, rfl, .popInto s _ fun _ _ => .of_same rfl rfl rfl rfl rfl rfl rfl⟩
  | rts => exact ⟨_, rfl, .popInto s _ fun _ _ => .of_same rfl rfl rfl rfl rfl rfl rfl⟩
  | txs => exact ⟨_, rfl, .setSize s _⟩
  | loop v => exact ⟨_, rfl, .loop s v⟩
  | jsr v => exact ⟨_, rfl, .jsr s _ v⟩
  | inx | iny | dex | dey =>
    simp only [exec, execInx, execIny, execDex, execDey]
    exact ⟨_, rfl, .updateIndex _ (.of_same rfl rfl rfl rfl rfl rfl rfl)⟩
  | jmp v | beq v | bne v | bmi v | bpl v | bcc v | bcs v | bvc v | bvs v =>
    simp only [exec, execJmp, execBeq, execBne, execBmi, execBpl, execBcc, execBcs, execBvc, execBvs]
    exact ⟨_, rfl, .ok (.branchIf s _ v)⟩
  | sta v => simp only [exec, execSta]; exact ⟨_, rfl, .ok (.memWrite s _ _)⟩
  | inc v | dec v =>
    simp only [exec, execInc, execDec]
    exact ⟨_, rfl, .ok (.memWrite s _ _)⟩
  | adc v | sbc v =>
    simp only [exec, execAdc, execSbc]
    exact ⟨_, rfl, .ok (.trans (t := s.setV _) (.of_same rfl rfl rfl rfl rfl rfl rfl) (.setV s _))⟩
  | lda | ldx | ldy | add | sub | and | ora | eor | asl | lsr | rol | ror | cmp | cpx | cpy
  | tax | tay | txa | tya | tsx | clc | sec | cld | cli | sed | sei | nop | rti | bit =>
    simp only [exec, execLda, execLdx, execLdy, execAdd, execSub, execAnd, execOra, execEor, execAsl, execLsr,
      execRol, execRor, execCmp, execCpx, execCpy, execTax, execTay, execTxa, execTya, execTsx, execClc, execSec,
      execCld, execCli, execSed, execSei, execNop, execRti, execBit]
    exact ⟨_, rfl, .ok (.of_same rfl rfl rfl rfl rfl rfl rfl)⟩
  | clv =>
    simp only [exec, execClv]
    exact ⟨_, rfl, .ok ⟨rfl, rfl, rfl, rfl, id, fun _ _ h => h, fun _ _ => rfl⟩⟩

/-- All that an instruction can do, as every invariant needs it: HALT halts; a fault of a phase's kinds is taken in the state before; or a phase that kept what every phase keeps is followed by the PC advance. -/
theorem exec_cases {i : Instr} {s t : State} (h : exec i s = .next t) :
    (i = .halt ∧ t = s.halt) ∨
    (i ≠ .halt ∧ ∃ k, k.OfPhase s ∧ t = s.takeFault k (some (s.cfg.opcodeMap.number i.op))) ∨
    (i ≠ .halt ∧ ∃ u : State, u.Keeps s ∧ t = u.advance i.op) := by
  by_cases hi : i = .halt
  · subst hi; exact .inl ⟨rfl, by simpa [exec, execHalt] using h.symm⟩
  · obtain ⟨r, he, hr⟩ := exec_phase i s hi
    rcases endInstr_cases (he ▸ h) with ⟨k, rfl, ht⟩ | ⟨u, rfl, ht⟩
    · exact .inr (.inl ⟨hi, k, hr, ht⟩)
    · exact .inr (.inr ⟨hi, u, hr, ht⟩)

/-- Every instruction answers a next state. -/
theorem exec_next (i : Instr) (s : State) : ∃ t, exec i s = .next t := by
  by_cases hi : i = .halt
  · subst hi; exact ⟨_, rfl⟩
  · obtain ⟨r, he, -⟩ := exec_phase i s hi
    cases r <;> exact ⟨_, he⟩

/-- A step of a machine with legal parameters in a terminal status. -/
theorem step_terminal {s : State} (hl : s.cfg.legal = true) (ht : s.terminal) : step s = .next s := by
  unfold step
  cases h : s.status
  · exact absurd h ht
  all_goals simp [hl]

/-- A step of a running machine with legal parameters. -/
theorem step_running {s : State} (hl : s.cfg.legal = true) (hr : s.status = .running) : step s = stepRunning s := by
  simp [step, hl, hr]

/-- The PC check, as it is stated (R82). -/
theorem pcInRange_iff {cfg : Config} {pc : Word} :
    pcInRange cfg pc = true ↔ 0 ≤ pc.toInt ∧ pc.toInt < cfg.pcLimit := by simp [pcInRange]

/-- All that a step can do. -/
theorem step_cases {s t : State} (h : step s = .next t) :
    s.cfg.legal = true ∧
    ((s.terminal ∧ t = s) ∨
     (s.status = .running ∧ pcInRange s.cfg s.pc = false ∧ t = s.takeFault .outOfRangeProgramCounter none) ∨
     (s.status = .running ∧ pcInRange s.cfg s.pc = true ∧
       ∃ u, decode s.cfg s.fetchWord = .error u ∧ t = s.unknownWord (opcField s.fetchWord)) ∨
     (s.status = .running ∧ pcInRange s.cfg s.pc = true ∧
       ∃ i, decode s.cfg s.fetchWord = .ok i ∧ exec i s = .next t)) := by
  cases hl : s.cfg.legal with
  | false => simp [step, hl] at h
  | true =>
    refine ⟨rfl, ?_⟩
    by_cases hr : s.status = .running
    · rw [step_running hl hr] at h
      unfold stepRunning at h
      cases hp : pcInRange s.cfg s.pc with
      | false => exact .inr (.inl ⟨hr, rfl, by simpa [hp] using h.symm⟩)
      | true =>
        rw [if_pos hp] at h
        cases hd : decode s.cfg s.fetchWord with
        | error u => exact .inr (.inr (.inl ⟨hr, rfl, u, rfl, by simpa [hd] using h.symm⟩))
        | ok i => exact .inr (.inr (.inr ⟨hr, rfl, i, rfl, by simpa [hd] using h⟩))
    · rw [step_terminal hl hr] at h
      exact .inl ⟨hr, by simpa using h.symm⟩

/-! ### Runs -/

@[simp] theorem run_zero (s : State) : Host.Core.run core 0 s = .next s := rfl

/-- A run begins with its first step. -/
theorem run_succ {s t : State} (n : Nat) (h : step s = .next t) :
    Host.Core.run core (n + 1) s = Host.Core.run core n t := by simp [Host.Core.run, core, h]

/-- A step that answers the same state never ends a run. -/
theorem run_of_step_self {s : State} (n : Nat) (h : step s = .next s) : Host.Core.run core n s = .next s := by
  induction n with
  | zero => rfl
  | succ n ih => rw [run_succ n h, ih]

end Sys2Proof.Machine
end

