-- ==== Sys2Proof/Tests/Slice0.lean ====
section
/-! SUPPORT. The model's own tests. Expected words are written out from 30_encoding.md R80 and R86; expected results are rows of 95_test_vectors.md, named in each docstring. Then one witness for each statement of Obligations.lean that has hypotheses. -/
namespace Sys2Proof.Tests
open Sys2Proof Sys2Proof.Machine

set_option Elab.async false

/-! ### The checks of WellFormed.lean: the defaults pass, an ill-formed setting fails each (00_scope.md R7, R87) -/

theorem test_reference_legal : Config.reference.legal = true := by decide +kernel

/-- The reference map under another setting of the other parameters. -/
theorem legal_of_reference_map {cfg : Config} (hm : cfg.opcodeMap = referenceOpcodeMap)
    (hp : cfg.pcLimitInRange = true) (hc : cfg.capacityPositive = true) : cfg.legal = true := by
  have h := test_reference_legal
  simp only [Config.legal, Bool.and_eq_true] at h ⊢
  exact ⟨⟨hm ▸ h.1.1, hp⟩, hc⟩

/-- BIT has no number. -/
theorem test_incomplete_map_refused :
    OpcodeMap.complete (referenceOpcodeMap.dropLast) = false ∧
    ({ Config.reference with opcodeMap := referenceOpcodeMap.dropLast } : Config).legal = false := by decide +kernel

/-- BIT shares 0x3A with RTI. -/
theorem test_shared_number_refused :
    OpcodeMap.injective (referenceOpcodeMap.dropLast ++ [(.bit, 0x3A)]) = false ∧
    ({ Config.reference with opcodeMap := referenceOpcodeMap.dropLast ++ [(.bit, 0x3A)] } : Config).legal = false := by
  decide +kernel

/-- HALT has 0x3C. -/
theorem test_halt_not_zero_refused :
    OpcodeMap.haltIsZero ((.halt, 0x3C) :: referenceOpcodeMap.tail) = false ∧
    OpcodeMap.complete ((.halt, 0x3C) :: referenceOpcodeMap.tail) = true ∧
    ({ Config.reference with opcodeMap := (.halt, 0x3C) :: referenceOpcodeMap.tail } : Config).legal = false := by
  decide +kernel

/-- `PC_LIMIT` 0 and 2^31 + 1 are refused, 1 and 2^31 are not. -/
theorem test_pc_limit_range :
    ({ Config.reference with pcLimit := 0 } : Config).pcLimitInRange = false ∧
    ({ Config.reference with pcLimit := 2 ^ 31 + 1 } : Config).pcLimitInRange = false ∧
    ({ Config.reference with pcLimit := 1 } : Config).pcLimitInRange = true ∧
    ({ Config.reference with pcLimit := 2 ^ 31 } : Config).pcLimitInRange = true ∧
    ({ Config.reference with pcLimit := 0 } : Config).legal = false := by decide +kernel

/-- `STACK_CAPACITY` 0 is refused, 1 is not. -/
theorem test_zero_capacity_refused :
    ({ Config.reference with stackCapacity := some 0 } : Config).capacityPositive = false ∧
    ({ Config.reference with stackCapacity := some 1 } : Config).capacityPositive = true ∧
    ({ Config.reference with stackCapacity := some 0 } : Config).legal = false := by decide +kernel

/-! ### Decoding: a word of every constructor, written out from R80 and R86 -/

/-- R86 rows 0x00 to 0x06; the operand of a class I word is ignored (E.12, E.13, R89). -/
theorem test_decode_halt_load_store :
    decode Config.reference 0x00000000 = .ok .halt ∧ decode Config.reference 0x00000005 = .ok .halt ∧
    decode Config.reference 0x0001000A = .ok (.lda 10) ∧ decode Config.reference 0x00020041 = .ok (.sta 65) ∧
    decode Config.reference 0x0003FFFF = .ok (.ldx 0xFFFF) ∧ decode Config.reference 0x00048000 = .ok (.ldy 0x8000) ∧
    decode Config.reference 0x00050009 = .ok .stx ∧ decode Config.reference 0x00060000 = .ok .sty := by decide +kernel

/-- R86 rows 0x07 to 0x11. -/
theorem test_decode_arithmetic :
    decode Config.reference 0x00070014 = .ok (.add 20) ∧ decode Config.reference 0x0008001E = .ok (.sub 30) ∧
    decode Config.reference 0x00090001 = .ok (.adc 1) ∧ decode Config.reference 0x000A0001 = .ok (.sbc 1) ∧
    decode Config.reference 0x000B0002 = .ok (.and 2) ∧ decode Config.reference 0x000C0002 = .ok (.ora 2) ∧
    decode Config.reference 0x000D0002 = .ok (.eor 2) ∧ decode Config.reference 0x000E0005 = .ok .asl ∧
    decode Config.reference 0x000F0000 = .ok .lsr ∧ decode Config.reference 0x00100000 = .ok .rol ∧
    decode Config.reference 0x00110000 = .ok .ror := by decide +kernel

/-- R86 rows 0x12 to 0x1A. -/
theorem test_decode_compare_incdec :
    decode Config.reference 0x0012000A = .ok (.cmp 10) ∧ decode Config.reference 0x00130009 = .ok (.cpx 9) ∧
    decode Config.reference 0x00140009 = .ok (.cpy 9) ∧ decode Config.reference 0x00150004 = .ok (.inc 4) ∧
    decode Config.reference 0x00160004 = .ok (.dec 4) ∧ decode Config.reference 0x00170000 = .ok .inx ∧
    decode Config.reference 0x00180000 = .ok .iny ∧ decode Config.reference 0x00190000 = .ok .dex ∧
    decode Config.reference 0x001A0000 = .ok .dey := by decide +kernel

/-- R86 rows 0x1B to 0x1F. -/
theorem test_decode_stack :
    decode Config.reference 0x001B0000 = .ok .pha ∧ decode Config.reference 0x001C0000 = .ok .pla ∧
    decode Config.reference 0x001D0000 = .ok .del ∧ decode Config.reference 0x001E0000 = .ok .php ∧
    decode Config.reference 0x001F0000 = .ok .plp := by decide +kernel

/-- R86 rows 0x20 to 0x2B. -/
theorem test_decode_control :
    decode Config.reference 0x00201234 = .ok (.jmp 0x1234) ∧ decode Config.reference 0x00210009 = .ok (.beq 9) ∧
    decode Config.reference 0x00220001 = .ok (.bne 1) ∧ decode Config.reference 0x00230014 = .ok (.bmi 20) ∧
    decode Config.reference 0x00240014 = .ok (.bpl 20) ∧ decode Config.reference 0x00250005 = .ok (.bcc 5) ∧
    decode Config.reference 0x00260005 = .ok (.bcs 5) ∧ decode Config.reference 0x00270005 = .ok (.bvc 5) ∧
    decode Config.reference 0x00280005 = .ok (.bvs 5) ∧ decode Config.reference 0x00290002 = .ok (.loop 2) ∧
    decode Config.reference 0x002A000A = .ok (.jsr 10) ∧ decode Config.reference 0x002B0000 = .ok .rts := by
  decide +kernel

/-- R86 rows 0x2C to 0x3B. -/
theorem test_decode_transfer_flag :
    decode Config.reference 0x002C0000 = .ok .tax ∧ decode Config.reference 0x002D0000 = .ok .tay ∧
    decode Config.reference 0x002E0000 = .ok .txa ∧ decode Config.reference 0x002F0000 = .ok .tya ∧
    decode Config.reference 0x00300000 = .ok .tsx ∧ decode Config.reference 0x00310000 = .ok .txs ∧
    decode Config.reference 0x00320000 = .ok .clc ∧ decode Config.reference 0x00330000 = .ok .sec ∧
    decode Config.reference 0x00340000 = .ok .clv ∧ decode Config.reference 0x00350000 = .ok .cld ∧
    decode Config.reference 0x00360000 = .ok .cli ∧ decode Config.reference 0x00370000 = .ok .sed ∧
    decode Config.reference 0x00380000 = .ok .sei ∧ decode Config.reference 0x0039FFFF = .ok .nop ∧
    decode Config.reference 0x003A0000 = .ok .rti ∧ decode Config.reference 0x003B0005 = .ok .bit := by decide +kernel

/-- E.7 to E.11: the words that decode as Unknown, and what `HIGH_BYTE_POLICY = ignore` makes of them. -/
theorem test_decode_unknown :
    decode Config.reference 0x003C0000 = .error .noOperation ∧ decode Config.reference 0x00FF0000 = .error .noOperation ∧
    decode Config.reference 0x01010000 = .error .highByte ∧ decode Config.reference 0xFFFFFFFF = .error .highByte ∧
    decode Config.reference 0x80000000 = .error .highByte ∧
    (decode { Config.reference with highBytePolicy := .ignore } 0x01010000 = .ok (.lda 0)) ∧
    (decode { Config.reference with highBytePolicy := .ignore } 0xFFFFFFFF = .error .noOperation) ∧
    (decode { Config.reference with highBytePolicy := .ignore } 0x80000000 = .ok .halt) := by decide +kernel

/-- E.1, E.3, E.4, E.5 and program P10's words: the assembler (R85, R91, R92). -/
theorem test_assemble :
    assembleItem Config.reference "LOAD" (some 10) = some 0x0001000A ∧
    assembleItem Config.reference "STORE" none = some 0x00020000 ∧
    assembleItem Config.reference "GO" (some 0x1234) = some 0x00201234 ∧
    assembleItem Config.reference "LDA" (some 0x12345) = some 0x00012345 ∧
    assembleItem Config.reference "MUL" none = none ∧
    decodeTableWord 24 0x0001000A = some (.lda 10) ∧ decodeTableWord 16 0x0005 = some .halt := by decide +kernel

/-- E.1, E.3, E.4 and E.5 as text, and HU.3's `HALT 5`; an operand that is no number is refused. -/
theorem test_assemble_text :
    assembleText Config.reference "LOAD 10" = some 0x0001000A ∧ assembleText Config.reference "STORE 0" = some 0x00020000 ∧
    assembleText Config.reference "JMP 0x1234" = some 0x00201234 ∧
    assembleText Config.reference "LDA 0x12345" = some 0x00012345 ∧ assembleText Config.reference "PHA" = some 0x001B0000 ∧
    assembleText Config.reference "HALT 5" = some 0x00000005 ∧ assembleText Config.reference "LDA 1F" = none ∧
    assembleText Config.reference "LDA 0x" = none ∧ assembleText Config.reference "LDA " = none := by decide +kernel

/-! ### Single instructions: rows of 95_test_vectors.md, Part 2 -/

/-- The reset state with the PC at 64, where Part 2 places the instruction word. -/
def base : State := { State.reset with pc := 64 }

/-- A state under another setting of the parameters. -/
def under (s : State) (f : Config → Config) : State := { s with cfg := f s.cfg }

/-- Whether one step with the word `w` at the PC of `s` ends in the state `f` names, in every field but the parameters. -/
def runsTo (w : Word) (s : State) (f : State → State) : Bool :=
  let s := s.placeWord w
  let t := f s
  match stepRunning s with
  | .next u =>
    u.a == t.a && u.x == t.x && u.y == t.y && u.pc == t.pc && u.c == t.c && u.v == t.v && u.stack == t.stack &&
      decide (u.status = t.status) && decide (u.fault = t.fault) && u.unkCount == t.unkCount && u.mem == t.mem
  | _ => false

/-- The state a fault record with these fields ends in. -/
def faulted (kind : FaultKind) (opcode : Option Opcode) (pc : Word) (s : State) : State :=
  { s with status := .faulted, fault := some ⟨kind, opcode, pc⟩ }

/-- LS.1, LS.2, LS.3, LS.4. -/
theorem test_lda :
    runsTo 0x0001000A { base with mem := [(10, 54)] } (fun s => { s with a := 54, pc := 65 }) ∧
    runsTo 0x0001000B { base with a := 9 } (fun s => { s with a := 0, pc := 65 }) ∧
    runsTo 0x0001FFFF { base with mem := [(0xFFFF, 0x80000000)] } (fun s => { s with a := 0x80000000, pc := 65 }) ∧
    runsTo 0x00010040 base (fun s => { s with a := 0x00010040, pc := 65 }) := by decide +kernel

/-- LS.5, LS.6 (storing 0 at 65 leaves 65 reading 0). -/
theorem test_sta :
    runsTo 0x00020000 { base with a := 30 } (fun s => { s with mem := [(0, 30), (64, 0x00020000)], pc := 65 }) ∧
    runsTo 0x00020041 { base with mem := [(65, 7)] } (fun s => { s with mem := [(64, 0x00020041)], pc := 65 }) := by
  decide +kernel

/-- LS.7. -/
theorem test_ldx : runsTo 0x00030005 { base with mem := [(5, 0xFFFFFFFF)] }
    (fun s => { s with x := 0xFFFFFFFF, pc := 65 }) := by decide +kernel

/-- LS.8. -/
theorem test_ldy : runsTo 0x00040007 { base with mem := [(7, 3)] } (fun s => { s with y := 3, pc := 65 }) := by
  decide +kernel

/-- LS.9. -/
theorem test_stx : runsTo 0x00050000 { base with x := 3, mem := [(0, 9)] }
    (fun s => { s with stack := [3], pc := 65 }) := by decide +kernel

/-- LS.10, LS.11. -/
theorem test_sty :
    runsTo 0x00060000 { base with y := 7, stack := [1] } (fun s => { s with stack := [1, 7], pc := 65 }) ∧
    runsTo 0x00060000 (under { base with y := 7, stack := [1] } fun cfg => { cfg with stackCapacity := some 1 })
      (faulted .stackOverflow (some 0x06) 64) := by decide +kernel

/-- AR.2, AR.3. -/
theorem test_add :
    runsTo 0x00070001 { base with a := 0x7FFFFFFF, c := true, mem := [(1, 1)] }
      (fun s => { s with a := 0x80000000, pc := 65 }) ∧
    runsTo 0x00070001 { base with a := 0xFFFFFFFF, mem := [(1, 1)] } (fun s => { s with a := 0, pc := 65 }) := by
  decide +kernel

/-- AR.4, AR.5. -/
theorem test_sub :
    runsTo 0x0008001E { base with a := 3, mem := [(30, 1)] } (fun s => { s with a := 2, pc := 65 }) ∧
    runsTo 0x00080001 { base with mem := [(1, 1)] } (fun s => { s with a := 0xFFFFFFFF, pc := 65 }) := by decide +kernel

/-- AR.7, AR.8, AR.9, AR.10, AR.11. -/
theorem test_adc :
    runsTo 0x00090001 { base with a := 0xFF, mem := [(1, 1)] } (fun s => { s with a := 0, c := true, pc := 65 }) ∧
    runsTo 0x00090001 { base with a := 0x7F, mem := [(1, 1)] } (fun s => { s with a := 0x80, v := true, pc := 65 }) ∧
    runsTo 0x00090001 { base with a := 0x80, mem := [(1, 0x80)] }
      (fun s => { s with a := 0, c := true, v := true, pc := 65 }) ∧
    runsTo 0x00090001 { base with a := 0x1234, c := true } (fun s => { s with a := 0x35, pc := 65 }) ∧
    runsTo 0x00090001 { base with a := 0xFFFFFFFF } (fun s => { s with a := 0xFF, pc := 65 }) := by decide +kernel

/-- AR.13. -/
theorem test_adc_without_v :
    runsTo 0x00090001 (under { base with a := 0x7F, mem := [(1, 1)] } fun cfg => { cfg with vRule := .never })
      (fun s => { s with a := 0x80, pc := 65 }) := by decide +kernel

/-- AR.15, AR.16, AR.17, AR.18, AR.19. -/
theorem test_sbc :
    runsTo 0x000A0001 { base with a := 5, c := true, mem := [(1, 5)] } (fun s => { s with a := 0, pc := 65 }) ∧
    runsTo 0x000A0001 { base with a := 5, mem := [(1, 5)] } (fun s => { s with a := 0xFF, pc := 65 }) ∧
    runsTo 0x000A0001 { base with a := 3, c := true, mem := [(1, 5)] }
      (fun s => { s with a := 0xFE, c := false, pc := 65 }) ∧
    runsTo 0x000A0001 { base with a := 0x80, c := true, mem := [(1, 1)] }
      (fun s => { s with a := 0x7F, v := true, pc := 65 }) ∧
    runsTo 0x000A0001 { base with a := 0x100, c := true, mem := [(1, 1)] } (fun s => { s with a := 0xFF, pc := 65 }) := by
  decide +kernel

/-- AR.20. -/
theorem test_and : runsTo 0x000B0002 { base with a := 0xF0F0, mem := [(2, 0xFF00)] }
    (fun s => { s with a := 0xF000, pc := 65 }) := by decide +kernel

/-- AR.22. -/
theorem test_ora : runsTo 0x000C0002 { base with a := 0xF0F0, mem := [(2, 0xFF00)] }
    (fun s => { s with a := 0xFFF0, pc := 65 }) := by decide +kernel

/-- AR.23. -/
theorem test_eor : runsTo 0x000D0002 { base with a := 0xF0F0, mem := [(2, 0xFF00)] }
    (fun s => { s with a := 0x0FF0, pc := 65 }) := by decide +kernel

/-- AR.26, AR.27, AR.35. -/
theorem test_asl :
    runsTo 0x000E0000 { base with a := 0x80000001 } (fun s => { s with a := 2, c := true, pc := 65 }) ∧
    runsTo 0x000E0000 { base with c := true } (fun s => { s with c := false, pc := 65 }) ∧
    runsTo 0x000E0000 (under { base with a := 0x1C0 } fun cfg => { cfg with shiftWidth := .bits8 })
      (fun s => { s with a := 0x80, c := true, pc := 65 }) := by decide +kernel

/-- AR.28, AR.30, AR.36. -/
theorem test_lsr :
    runsTo 0x000F0000 { base with a := 0x80000001 } (fun s => { s with a := 0x40000000, c := true, pc := 65 }) ∧
    runsTo 0x000F0000 { base with a := 2, c := true } (fun s => { s with a := 1, c := false, pc := 65 }) ∧
    runsTo 0x000F0000 (under { base with a := 0x101 } fun cfg => { cfg with shiftWidth := .bits8 })
      (fun s => { s with a := 0, c := true, pc := 65 }) := by decide +kernel

/-- AR.31, AR.32, AR.37. -/
theorem test_rol :
    runsTo 0x00100000 { base with a := 1 } (fun s => { s with a := 2, pc := 65 }) ∧
    runsTo 0x00100000 { base with a := 0x80000000, c := true } (fun s => { s with a := 1, pc := 65 }) ∧
    runsTo 0x00100000 (under { base with a := 0x80, c := true } fun cfg => { cfg with shiftWidth := .bits8 })
      (fun s => { s with a := 1, pc := 65 }) := by decide +kernel

/-- AR.33, AR.34, AR.38. -/
theorem test_ror :
    runsTo 0x00110000 { base with a := 1 } (fun s => { s with a := 0, c := true, pc := 65 }) ∧
    runsTo 0x00110000 { base with c := true } (fun s => { s with a := 0x80000000, c := false, pc := 65 }) ∧
    runsTo 0x00110000 (under { base with a := 1, c := true } fun cfg => { cfg with shiftWidth := .bits8 })
      (fun s => { s with a := 0x80, pc := 65 }) := by decide +kernel

/-- CP.1, CP.3, CP.4, CP.5, CP.6. -/
theorem test_cmp :
    runsTo 0x0012000A { base with a := 10, mem := [(10, 10)] } (fun s => { s with a := 0, c := true, pc := 65 }) ∧
    runsTo 0x0012000A { base with a := 3, mem := [(10, 5)] } (fun s => { s with a := 0xFE, pc := 65 }) ∧
    runsTo 0x0012000A { base with a := 0xFFFFFFFF, mem := [(10, 1)] } (fun s => { s with a := 0xFE, pc := 65 }) ∧
    runsTo 0x0012000A { base with a := 0x105, mem := [(10, 5)] } (fun s => { s with a := 0, c := true, pc := 65 }) ∧
    runsTo 0x0012000A { base with a := 0x80000000, mem := [(10, 0x7FFFFFFF)] } (fun s => { s with a := 1, pc := 65 }) := by
  decide +kernel

/-- CP.8, CP.9. -/
theorem test_cpx :
    runsTo 0x00130009 { base with x := 4, a := 7, mem := [(9, 3)] } (fun s => { s with c := true, pc := 65 }) ∧
    runsTo 0x00130009 { base with x := 0x80000000, c := true } (fun s => { s with c := false, pc := 65 }) := by
  decide +kernel

/-- CP.10, CP.11. -/
theorem test_cpy :
    runsTo 0x00140009 { base with y := 2, c := true, mem := [(9, 3)] } (fun s => { s with c := false, pc := 65 }) ∧
    runsTo 0x00140009 base (fun s => { s with c := true, pc := 65 }) := by decide +kernel

/-- ID.2, ID.3. -/
theorem test_inc :
    runsTo 0x00150004 { base with mem := [(4, 0xFF)] } (fun s => { s with mem := [(64, 0x00150004)], pc := 65 }) ∧
    runsTo 0x00150004 { base with mem := [(4, 0x1234)] }
      (fun s => { s with mem := [(4, 0x35), (64, 0x00150004)], pc := 65 }) := by decide +kernel

/-- ID.6, ID.7. -/
theorem test_dec :
    runsTo 0x00160004 base (fun s => { s with mem := [(4, 0xFF), (64, 0x00160004)], pc := 65 }) ∧
    runsTo 0x00160004 { base with mem := [(4, 0x100)] }
      (fun s => { s with mem := [(4, 0xFF), (64, 0x00160004)], pc := 65 }) := by decide +kernel

/-- ID.10, ID.16. -/
theorem test_inx :
    runsTo 0x00170000 { base with x := 0xFF } (fun s => { s with x := 0x100, pc := 65 }) ∧
    runsTo 0x00170000
      (under { base with x := 9, mem := [(0xFF, 5)] } fun cfg => { cfg with indexStorage := .sharedMemory })
      (fun s => { s with mem := [(64, 0x00170000), (0xFF, 6)], pc := 65 }) := by decide +kernel

/-- ID.12, and ID.18's second instruction. -/
theorem test_iny :
    runsTo 0x00180000 { base with y := 0xFFFFFFFF } (fun s => { s with y := 0, pc := 65 }) ∧
    runsTo 0x00180000 (under { base with mem := [(0xFF, 6)] } fun cfg => { cfg with indexStorage := .sharedMemory })
      (fun s => { s with mem := [(64, 0x00180000), (0xFF, 7)], pc := 65 }) := by decide +kernel

/-- ID.13. -/
theorem test_dex : runsTo 0x00190000 base (fun s => { s with x := 0xFFFFFFFF, pc := 65 }) := by decide +kernel

/-- ID.15, ID.17. -/
theorem test_dey :
    runsTo 0x001A0000 base (fun s => { s with y := 0xFFFFFFFF, pc := 65 }) ∧
    runsTo 0x001A0000 (under base fun cfg => { cfg with indexStorage := .sharedMemory })
      (fun s => { s with mem := [(64, 0x001A0000), (0xFF, 0xFFFFFFFF)], pc := 65 }) := by decide +kernel

/-- ST.1, ST.9. -/
theorem test_pha :
    runsTo 0x001B0000 { base with a := 54 } (fun s => { s with stack := [54], pc := 65 }) ∧
    runsTo 0x001B0000 (under { base with a := 3, stack := [1, 2] } fun cfg => { cfg with stackCapacity := some 2 })
      (faulted .stackOverflow (some 0x1B) 64) := by decide +kernel

/-- ST.2, ST.3. -/
theorem test_pla :
    runsTo 0x001C0000 { base with a := 46, stack := [54] } (fun s => { s with a := 54, stack := [], pc := 65 }) ∧
    runsTo 0x001C0000 { base with a := 46 } (faulted .stackUnderflow (some 0x1C) 64) := by decide +kernel

/-- ST.4, ST.5. -/
theorem test_del :
    runsTo 0x001D0000 { base with stack := [1, 2] } (fun s => { s with stack := [1], pc := 65 }) ∧
    runsTo 0x001D0000 base (faulted .stackUnderflow (some 0x1D) 64) := by decide +kernel

/-- ST.6. -/
theorem test_php : runsTo 0x001E0000 { base with a := 9, c := true } (fun s => { s with stack := [9], pc := 65 }) := by
  decide +kernel

/-- ST.7, ST.8. -/
theorem test_plp :
    runsTo 0x001F0000 { base with stack := [9] } (fun s => { s with a := 9, stack := [], pc := 65 }) ∧
    runsTo 0x001F0000 base (faulted .stackUnderflow (some 0x1F) 64) := by decide +kernel

/-- CT.2, CT.4. -/
theorem test_jmp :
    runsTo 0x00200000 { base with pc := 5 } (fun s => { s with pc := 0 }) ∧
    runsTo 0x0020FFFF { base with pc := 3 } (fun s => { s with pc := 0xFFFF }) := by decide +kernel

/-- CT.6, CT.8. -/
theorem test_beq :
    runsTo 0x00210009 { base with pc := 3 } (fun s => { s with pc := 9 }) ∧
    runsTo 0x00210009 { base with pc := 3, a := 0x100 } (fun s => { s with pc := 4 }) := by decide +kernel

/-- CT.9, CT.10. -/
theorem test_bne :
    runsTo 0x00220001 { base with pc := 3, a := 2 } (fun s => { s with pc := 1 }) ∧
    runsTo 0x00220001 { base with pc := 3 } (fun s => { s with pc := 4 }) := by decide +kernel

/-- CT.11, CT.12, CT.13. -/
theorem test_bmi :
    runsTo 0x00230014 { base with pc := 3, a := 0xFFFFFFFF } (fun s => { s with pc := 20 }) ∧
    runsTo 0x00230014 { base with pc := 3, a := 0x80 } (fun s => { s with pc := 4 }) ∧
    runsTo 0x00230014 (under { base with pc := 3, a := 0x80 } fun cfg => { cfg with signBit := .bit7 })
      (fun s => { s with pc := 20 }) := by decide +kernel

/-- CT.14, CT.15. -/
theorem test_bpl :
    runsTo 0x00240014 { base with pc := 3 } (fun s => { s with pc := 20 }) ∧
    runsTo 0x00240014 { base with pc := 3, a := 0x80000000 } (fun s => { s with pc := 4 }) := by decide +kernel

/-- CT.16, CT.17. -/
theorem test_bcc :
    runsTo 0x00250005 { base with pc := 3 } (fun s => { s with pc := 5 }) ∧
    runsTo 0x00250005 { base with pc := 3, c := true } (fun s => { s with pc := 4 }) := by decide +kernel

/-- CT.18, CT.19. -/
theorem test_bcs :
    runsTo 0x00260005 { base with pc := 3, c := true } (fun s => { s with pc := 5 }) ∧
    runsTo 0x00260005 { base with pc := 3 } (fun s => { s with pc := 4 }) := by decide +kernel

/-- CT.20, CT.21. -/
theorem test_bvc :
    runsTo 0x00270005 { base with pc := 3 } (fun s => { s with pc := 5 }) ∧
    runsTo 0x00270005 { base with pc := 3, v := true } (fun s => { s with pc := 4 }) := by decide +kernel

/-- CT.22, CT.23. -/
theorem test_bvs :
    runsTo 0x00280005 { base with pc := 3, v := true } (fun s => { s with pc := 5 }) ∧
    runsTo 0x00280005 { base with pc := 3 } (fun s => { s with pc := 4 }) := by decide +kernel

/-- CT.24, CT.25, CT.26, CT.27. -/
theorem test_loop :
    runsTo 0x00290002 { base with pc := 5, stack := [3] } (fun s => { s with stack := [2], pc := 2 }) ∧
    runsTo 0x00290002 { base with pc := 5, stack := [1] } (fun s => { s with stack := [], pc := 6 }) ∧
    runsTo 0x00290002 { base with pc := 5, stack := [9, 0] } (fun s => { s with stack := [9, 0xFFFFFFFF], pc := 2 }) ∧
    runsTo 0x00290002 { base with pc := 5 } (faulted .stackUnderflow (some 0x29) 5) := by decide +kernel

/-- CT.28, CT.29. -/
theorem test_jsr :
    runsTo 0x002A000A { base with pc := 0 } (fun s => { s with stack := [2], pc := 10 }) ∧
    runsTo 0x002A000A { base with pc := 0xFFFF, stack := [4] } (fun s => { s with stack := [4, 0x10001], pc := 10 }) := by
  decide +kernel

/-- CT.30, CT.31, CT.32, CT.34. -/
theorem test_rts :
    runsTo 0x002B0000 { base with pc := 11, stack := [2] } (fun s => { s with stack := [], pc := 3 }) ∧
    runsTo 0x002B0000 (under { base with pc := 11, stack := [2] } fun cfg => { cfg with rtsIncrement := false })
      (fun s => { s with stack := [], pc := 2 }) ∧
    runsTo 0x002B0000 { base with pc := 11, stack := [0xFFFFFFFF] } (fun s => { s with stack := [], pc := 0 }) ∧
    runsTo 0x002B0000 { base with pc := 11 } (faulted .stackUnderflow (some 0x2B) 11) := by decide +kernel

/-- TF.1. -/
theorem test_tax : runsTo 0x002C0000 { base with a := 5 } (fun s => { s with x := 5, pc := 65 }) := by decide +kernel

/-- TF.2. -/
theorem test_tay : runsTo 0x002D0000 { base with a := 0xFFFFFFFF } (fun s => { s with y := 0xFFFFFFFF, pc := 65 }) := by
  decide +kernel

/-- TF.3. -/
theorem test_txa : runsTo 0x002E0000 { base with x := 3, a := 9 } (fun s => { s with a := 3, pc := 65 }) := by
  decide +kernel

/-- TF.4. -/
theorem test_tya : runsTo 0x002F0000 { base with a := 9 } (fun s => { s with a := 0, pc := 65 }) := by decide +kernel

/-- TF.5, TF.6. -/
theorem test_tsx :
    runsTo 0x00300000 { base with stack := [7, 8, 9] } (fun s => { s with x := 3, pc := 65 }) ∧
    runsTo 0x00300000 { base with x := 5 } (fun s => { s with x := 0, pc := 65 }) := by decide +kernel

/-- TF.7, TF.8, TF.9, TF.10, TF.13. -/
theorem test_txs :
    runsTo 0x00310000 { base with x := 1, stack := [7, 8, 9] } (fun s => { s with stack := [7], pc := 65 }) ∧
    runsTo 0x00310000 { base with x := 3, stack := [7, 8, 9] } (fun s => { s with pc := 65 }) ∧
    runsTo 0x00310000 { base with stack := [7, 8, 9] } (fun s => { s with stack := [], pc := 65 }) ∧
    runsTo 0x00310000 { base with x := 4, stack := [7, 8, 9] } (faulted .stackSizeRange (some 0x31) 64) ∧
    runsTo 0x00310000 { base with x := 0xFFFFFFFF, stack := [7] } (faulted .stackSizeRange (some 0x31) 64) := by
  decide +kernel

/-- TF.11, TF.12, and padding past a capacity (R44, R305). -/
theorem test_txs_policies :
    runsTo 0x00310000 (under { base with x := 4, stack := [7, 8, 9] } fun cfg => { cfg with txsGrowPolicy := .noop })
      (fun s => { s with pc := 65 }) ∧
    runsTo 0x00310000 (under { base with x := 5, stack := [7, 8, 9] } fun cfg => { cfg with txsGrowPolicy := .padZero })
      (fun s => { s with stack := [7, 8, 9, 0, 0], pc := 65 }) ∧
    runsTo 0x00310000 (under { base with x := 5, stack := [7, 8, 9] } fun cfg =>
        { cfg with txsGrowPolicy := .padZero, stackCapacity := some 4 })
      (faulted .stackOverflow (some 0x31) 64) := by decide +kernel

/-- TF.14. -/
theorem test_clc : runsTo 0x00320000 { base with c := true, v := true } (fun s => { s with c := false, pc := 65 }) := by
  decide +kernel

/-- TF.15. -/
theorem test_sec : runsTo 0x00330000 base (fun s => { s with c := true, pc := 65 }) := by decide +kernel

/-- TF.16. -/
theorem test_clv : runsTo 0x00340000 { base with c := true, v := true } (fun s => { s with v := false, pc := 65 }) := by
  decide +kernel

/-- TF.17 to TF.21. -/
theorem test_no_effect :
    runsTo 0x00350000 { base with a := 1, stack := [5], c := true } (fun s => { s with pc := 65 }) ∧
    runsTo 0x00360000 { base with a := 1, stack := [5], c := true } (fun s => { s with pc := 65 }) ∧
    runsTo 0x00370000 { base with a := 1, stack := [5], v := true } (fun s => { s with pc := 65 }) ∧
    runsTo 0x00380000 { base with a := 1, stack := [5], v := true } (fun s => { s with pc := 65 }) ∧
    runsTo 0x00390000 { base with a := 1, stack := [5] } (fun s => { s with pc := 65 }) := by decide +kernel

/-- TF.22, TF.23. -/
theorem test_rti :
    runsTo 0x003A0000 { base with stack := [5] } (fun s => { s with pc := 65 }) ∧
    runsTo 0x003A0000 base (fun s => { s with pc := 65 }) := by decide +kernel

/-- TF.24. -/
theorem test_bit : runsTo 0x003B0005 { base with a := 1, c := true, mem := [(5, 0xFF)] } (fun s => { s with pc := 65 }) := by
  decide +kernel

/-- HU.1, HU.2, HU.3. -/
theorem test_halt :
    runsTo 0x00000000 { base with pc := 3 } (fun s => { s with status := .halted }) ∧
    runsTo 0x00000000 (under { base with pc := 3 } fun cfg => { cfg with haltPcAdvance := true })
      (fun s => { s with status := .halted, pc := 4 }) ∧
    runsTo 0x00000005 { base with pc := 3 } (fun s => { s with status := .halted }) := by decide +kernel

/-- HU.5, HU.6, HU.7, HU.8. -/
theorem test_unknown :
    runsTo 0x00FF0000 { base with pc := 2 } (fun s => { s with unkCount := 1, pc := 3 }) ∧
    runsTo 0x00FF0000 (under { base with pc := 2 } fun cfg => { cfg with unknownOpcodeMode := .strict })
      (faulted .unknownOpcode (some 0xFF) 2) ∧
    runsTo 0x01010000 { base with pc := 2 } (fun s => { s with unkCount := 1, pc := 3 }) ∧
    runsTo 0x01010000 (under { base with pc := 2, mem := [(0, 6)] } fun cfg => { cfg with highBytePolicy := .ignore })
      (fun s => { s with a := 6, pc := 3 }) := by decide +kernel

/-- HU.9, CT.5's and CT.33's second step: the PC check. -/
theorem test_pc_check :
    pcInRange Config.reference 0x80000000 = false ∧ pcInRange Config.reference 0xFFFFFFFF = false ∧
    pcInRange Config.reference 0x7FFFFFFF = true ∧ pcInRange { Config.reference with pcLimit := 16 } 16 = false ∧
    pcInRange { Config.reference with pcLimit := 16 } 15 = true := by decide +kernel

/-- The state a step of the whole machine ends in. -/
def after (s : State) : Option State :=
  match step s with
  | .next t => some t
  | _ => none

/-- P7's first step from a load, HU.4's Idle and HU.1's report. -/
theorem test_step_and_report :
    (after (State.reset.load [0x00010005, 0x00070006] [(5, 2), (6, 3)])).map (fun t => (t.a, t.pc)) = some (2, 1) ∧
    stepReport State.reset = some .haltedNow ∧
    stepReport { State.reset with status := .halted } = some .idle ∧
    stepReport { base with mem := [(64, 0x00FF0000)] } = some (.unknownReported 0xFF 64) := by decide +kernel

/-- The same word through the host's two functions: it runs as the first instruction after reset. -/
theorem test_with_fetch_word :
    (after (State.reset.withFetchWord 24 0x00330000)).map (fun t => (t.c, t.pc)) = some (true, 1) := by decide +kernel

/-- P4's image and overlay (R331), read back; a shared address has the overlay's Word. -/
theorem test_load :
    (State.reset.load [0x002A000A, 0x00390000] [(40, 5), (1, 0)]).mem = [(0, 0x002A000A), (40, 5)] := by decide +kernel

/-- R300's labels. -/
theorem test_fault_codes :
    [FaultKind.stackUnderflow, .outOfRangeProgramCounter, .unknownOpcode, .divisionByZero, .stackSizeRange,
      .stackOverflow].map FaultKind.code = [1, 2, 3, 4, 5, 6] := by decide

/-- R51's snapshot, R49's host access and run-to-halt, on P6 (a fault at address 0). -/
theorem test_host_port :
    (State.snapshot { base with stack := [1], c := true }) = { stack := [1], c := true, v := false, pc := 64 } ∧
    (base.setMemory 7 9).getMemory 7 = 9 ∧
    (match runToHalt 5 (State.reset.load [0x001C0000] []) with
      | .next t => t.fault
      | _ => none) = some ⟨.stackUnderflow, some 0x1C, 0⟩ := by decide +kernel

/-! ### Witnesses: concrete states and operands that meet the hypotheses of each statement, clause by clause -/

/-- A step that ends in a state with a property. -/
theorem exists_of_after {s : State} {p : State → Bool} (h : (after s).any p = true) :
    ∃ t, step s = .next t ∧ p t = true := by
  unfold after at h
  split at h
  · exact ⟨_, by assumption, by simpa using h⟩
  · simp at h

/-- A running core with `w` at address 0, the stack [7, 5] and something in each register. -/
def running (w : Word) : State :=
  ({ State.reset with a := 0x81, x := 2, y := 3, stack := [7, 5] } : State).placeWord w

/-- The same with other parameters, legal as long as the map is kept. -/
def runningUnder (w : Word) (f : Config → Config) : State := under (running w) f

theorem running_legal (w : Word) : (running w).cfg.legal = true := test_reference_legal

theorem witness_DecodeOfEncodeIsTheInstruction : ∃ cfg : Config, cfg.legal = true := ⟨_, test_reference_legal⟩

/-- Class M under both policies, and class I with its operand changed. -/
theorem witness_DecodedWordIsItsEncodingButForIgnoredBits :
    Config.reference.legal = true ∧ decode Config.reference 0x0001000A = .ok (.lda 10) ∧
    (Instr.lda 10).op.operandClass ≠ .implied ∧ Config.reference.highBytePolicy = .unknown ∧
    ({ Config.reference with highBytePolicy := .ignore } : Config).legal = true ∧
    (decode { Config.reference with highBytePolicy := .ignore } 0x0101000A = .ok (.lda 10)) ∧
    decode Config.reference 0x0039FFFF = .ok .nop ∧ Instr.nop.op.operandClass = .implied ∧
    hiField 0x00390000 = hiField 0x0039FFFF ∧ opcField 0x00390000 = opcField 0x0039FFFF := by decide +kernel

/-- PC 0 and the last PC in range. -/
theorem witness_StepRunsTheDecodedInstruction :
    (running 0x0001000A).cfg.legal = true ∧ (running 0x0001000A).status = .running ∧
    0 ≤ (running 0x0001000A).pc.toInt ∧ (running 0x0001000A).pc.toInt < (running 0x0001000A).cfg.pcLimit ∧
    decode (running 0x0001000A).cfg ((running 0x0001000A).mem.read (running 0x0001000A).pc.toNat) = .ok (.lda 10) ∧
    (0x7FFFFFFF : Word).toInt < Config.reference.pcLimit ∧ 0 ≤ (0x7FFFFFFF : Word).toInt := by decide +kernel

/-- A negative PC, and a PC equal to `PC_LIMIT`. -/
theorem witness_StepFaultsWhenThePcIsOutOfRange :
    ({ State.reset with pc := 0x80000000 } : State).cfg.legal = true ∧ (0x80000000 : Word).toInt < 0 ∧
    ({ Config.reference with pcLimit := 16 } : Config).legal = true ∧
    ((({ Config.reference with pcLimit := 16 } : Config).pcLimit : Int) ≤ (16 : Word).toInt) := by decide +kernel

theorem witness_UnknownWordsAreSkippedOrFault :
    (running 0x00FF0000).cfg.legal = true ∧ (running 0x00FF0000).status = .running ∧
    0 ≤ (running 0x00FF0000).pc.toInt ∧ (running 0x00FF0000).pc.toInt < (running 0x00FF0000).cfg.pcLimit ∧
    decode (running 0x00FF0000).cfg ((running 0x00FF0000).mem.read (running 0x00FF0000).pc.toNat) =
      .error .noOperation ∧
    (running 0x00FF0000).cfg.unknownOpcodeMode = .lenient ∧
    (runningUnder 0x00FF0000 fun cfg => { cfg with unknownOpcodeMode := .strict }).cfg.legal = true ∧
    (runningUnder 0x00FF0000 fun cfg => { cfg with unknownOpcodeMode := .strict }).cfg.unknownOpcodeMode = .strict := by
  decide +kernel

theorem witness_TerminalStatesAbsorbEveryStep :
    ({ State.reset with status := .halted } : State).cfg.legal = true ∧
    ({ State.reset with status := .halted } : State).terminal ∧
    ({ State.reset with status := .faulted } : State).terminal :=
  ⟨test_reference_legal, by simp [State.terminal], by simp [State.terminal]⟩

/-- A PC check that fails, and PLA on an empty stack. -/
theorem witness_FaultsArePrecise :
    (∃ t, step { State.reset with pc := 0x80000000 } = .next t ∧ decide (t.status = .faulted) = true) ∧
    (∃ t, step (State.reset.placeWord 0x001C0000) = .next t ∧ decide (t.status = .faulted) = true) :=
  ⟨exists_of_after (by decide +kernel), exists_of_after (by decide +kernel)⟩

theorem witness_EveryStepAnswersANextState :
    State.reset.cfg.legal = true ∧
    (under State.reset fun cfg => { cfg with pcLimit := 0 }).cfg.legal = false := by decide +kernel

/-- HALT, a fault, LDA, and an unknown word. -/
theorem witness_StepReportsWhatItDid :
    (running 0).fault = none ∧
    (∃ t, step (running 0) = .next t ∧ decide (t.status = .halted) = true) ∧
    (∃ t, step (State.reset.placeWord 0x001C0000) = .next t ∧ decide (t.status = .faulted) = true) ∧
    (∃ t, step (running 0x0001000A) = .next t ∧ decide (t.status = .running) = true) ∧
    (∃ t, step (running 0x00FF0000) = .next t ∧ decide (t.status = .running) = true) :=
  ⟨rfl, exists_of_after (by decide +kernel), exists_of_after (by decide +kernel), exists_of_after (by decide +kernel),
    exists_of_after (by decide +kernel)⟩

/-- A short list fits the port. -/
theorem short_fits {l : List Word} (h : l.length = 2) : l.length ≤ 2 ^ 31 := by omega

/-- An overlay that shares address 0 with the image and names the port's last address; address 1 is the image's alone, 2 nobody's. -/
theorem witness_ProgramLoadPlacesImageThenOverlay :
    [(0x0001000A : Word), 0x00390000].length ≤ 2 ^ 31 ∧
    ([((0 : Addr), (5 : Word)), (0x7FFFFFFF, 6)].map Prod.fst).Nodup ∧
    (∀ p ∈ [((0 : Addr), (5 : Word)), (0x7FFFFFFF, 6)], p.1 ≠ 1) ∧
    (∀ p ∈ [((0 : Addr), (5 : Word)), (0x7FFFFFFF, 6)], p.1 ≠ 2) :=
  ⟨short_fits rfl, by simp, by simp, by simp⟩

theorem witness_RunningOffTheProgramHalts :
    State.reset.cfg.legal = true ∧ State.reset.status = .running ∧ 0 ≤ State.reset.pc.toInt ∧
    State.reset.pc.toInt < State.reset.cfg.pcLimit ∧ State.reset.mem.read State.reset.pc.toNat = 0 := by decide +kernel

/-- The last address and the one before it; INC at the last operand, and INX on the shared cell. -/
theorem witness_WriteReplacesOneWord :
    (0x7FFFFFFE : Nat) ≠ (0x7FFFFFFF : Addr).toNat ∧ (Instr.inc 0xFFFF).op.operandClass = .memory ∧
    (∃ t, exec (.inc 0xFFFF) (running 0) = .next t) ∧ Instr.inx.op ∈ [Op.inx, .iny, .dex, .dey] ∧
    (∃ t, exec .inx (runningUnder 0 fun cfg => { cfg with indexStorage := .sharedMemory }) = .next t) :=
  ⟨by decide +kernel, rfl, ⟨_, rfl⟩, by decide, ⟨_, rfl⟩⟩

theorem witness_StepUsesThePortInOrder :
    (running 0x00150004).cfg.legal = true ∧ (running 0x00150004).status = .running ∧
    0 ≤ (running 0x00150004).pc.toInt ∧ (running 0x00150004).pc.toInt < (running 0x00150004).cfg.pcLimit ∧
    (∃ t, step (running 0x00150004) = .next t ∧ (t.mem == [(0, 0x00150004), (4, 1)]) = true) :=
  ⟨running_legal _, rfl, by decide +kernel, by decide +kernel, exists_of_after (by decide +kernel)⟩

/-- Two states that differ at address 9, with LDA 10 at 0. -/
theorem witness_StepDependsOnlyOnTheWordsItReads :
    (running 0x0001000A).cfg.legal = true ∧
    (running 0x0001000A).sameCore { running 0x0001000A with mem := [(0, 0x0001000A), (9, 1)] } ∧
    (running 0x0001000A).mem ≠ [(0, 0x0001000A), (9, 1)] ∧
    (∀ p ∈ stepAccesses (running 0x0001000A), ∀ addr, p.readAddr = some addr →
      (running 0x0001000A).memRead addr =
        ({ running 0x0001000A with mem := [(0, 0x0001000A), (9, 1)] } : State).memRead addr) ∧
    (∃ t, step (running 0x0001000A) = .next t ∧ (t.pc == 1) = true) := by
  refine ⟨running_legal _, rfl, by decide +kernel, fun p hp addr ha => ?_, exists_of_after (by decide +kernel)⟩
  have h : stepAccesses (running 0x0001000A) = [.fetch 0, .read 10] := by decide +kernel
  rw [h] at hp
  simp only [List.mem_cons, List.not_mem_nil, or_false] at hp
  rcases hp with rfl | rfl <;> cases ha <;> decide +kernel

/-- A state deep in a run: a listed memory, a stack and a pending count. -/
theorem running_inv : ({ running 0x001C0000 with unkCount := 3 } : State).Inv where
  parameters := running_legal 0x001C0000
  memory := by decide +kernel
  record := by decide
  fits := by intro r h; cases h
  depth := by intro n h; cases h
  overflowNever := by intro h; cases h
  count := by intro h; cases h

theorem witness_StepKeepsTheInvariant :
    ({ running 0x001C0000 with unkCount := 3 } : State).Inv ∧
    ∃ t, step { running 0x001C0000 with unkCount := 3 } = .next t ∧ (t.a == 5) = true :=
  ⟨running_inv, exists_of_after (by decide +kernel)⟩

theorem witness_ResetAndLoadHaveTheInvariant : ∃ s : State, s.cfg.legal = true := ⟨State.reset, test_reference_legal⟩

theorem witness_ParametersAndTerminalStatusStay :
    (∃ t, step (running 0x0001000A) = .next t ∧ (t.pc == 1) = true) ∧
    (∃ t, step { running 0x0001000A with status := .halted } = .next t ∧ decide (t.status = .halted) = true) ∧
    ({ running 0x0001000A with status := .halted } : State).terminal :=
  ⟨exists_of_after (by decide +kernel), exists_of_after (by decide +kernel), by simp [State.terminal]⟩

/-- NOP writes no flag; ADC writes V under its rule and leaves it under `never`. -/
theorem witness_OnlyTheListedInstructionsWriteFlags :
    (∃ t, exec .nop (running 0) = .next t) ∧ Instr.nop.op ∉ [Op.adc, .sbc, .clv] ∧
    (∃ t, exec (.adc 1) { running 0 with a := 0x7F, c := true } = .next t ∧ t.v = true) ∧
    (∃ t, exec (.adc 1) (runningUnder 0 fun cfg => { cfg with vRule := .never }) = .next t) ∧
    (Instr.adc 1).op ∈ [Op.adc, .sbc] :=
  ⟨⟨_, rfl⟩, by decide, ⟨_, rfl, by decide +kernel⟩, ⟨_, rfl⟩, by decide⟩

theorem witness_OnlyTheListedInstructionsWriteRegisters :
    (∃ t, exec .nop (running 0) = .next t) ∧ (∃ t, exec .inx (running 0) = .next t) ∧
    (∃ t, exec .inx (runningUnder 0 fun cfg => { cfg with indexStorage := .sharedMemory }) = .next t) ∧
    Instr.inx.op ∈ [Op.inx, .iny, .dex, .dey] := ⟨⟨_, rfl⟩, ⟨_, rfl⟩, ⟨_, rfl⟩, by decide⟩

/-- An instruction that leaves the stack; a push, on the empty stack too; a pop, down to the empty stack; and both ends of LOOP. -/
theorem witness_OnlyTheListedInstructionsChangeTheStack :
    (∃ t, exec .nop (running 0) = .next t ∧ t.stack = [7, 5]) ∧
    (∃ t, exec .pha (running 0) = .next t ∧ t.status ≠ .faulted ∧ t.stack = [7, 5, 0x81]) ∧
    (∃ t, exec .pha State.reset = .next t ∧ t.status ≠ .faulted ∧ t.stack = [0]) ∧
    (∃ t, exec .pla (running 0) = .next t ∧ t.status ≠ .faulted ∧ t.stack = [7]) ∧
    (∃ t, exec .pla { running 0 with stack := [9] } = .next t ∧ t.status ≠ .faulted ∧ t.stack = []) ∧
    (∃ t, exec (.loop 0) (running 0) = .next t ∧ t.status ≠ .faulted ∧ t.stack = [7, 4]) ∧
    (∃ t, exec (.loop 0) { running 0 with stack := [1] } = .next t ∧ t.status ≠ .faulted ∧ t.stack = []) :=
  ⟨⟨_, rfl, by decide +kernel⟩, ⟨_, rfl, by decide +kernel⟩, ⟨_, rfl, by decide +kernel⟩, ⟨_, rfl, by decide +kernel⟩,
    ⟨_, rfl, by decide +kernel⟩, ⟨_, rfl, by decide +kernel⟩, ⟨_, rfl, by decide +kernel⟩⟩

/-- On the empty stack the poppers and LOOP fault (R41, R42, R301), so no pop completes there. -/
theorem test_empty_stack_faults :
    (∃ t, exec .pla State.reset = .next t ∧ t.status = .faulted) ∧
    (∃ t, exec .plp State.reset = .next t ∧ t.status = .faulted) ∧
    (∃ t, exec .del State.reset = .next t ∧ t.status = .faulted) ∧
    (∃ t, exec .rts State.reset = .next t ∧ t.status = .faulted) ∧
    (∃ t, exec (.loop 0) State.reset = .next t ∧ t.status = .faulted) :=
  ⟨⟨_, rfl, by decide +kernel⟩, ⟨_, rfl, by decide +kernel⟩, ⟨_, rfl, by decide +kernel⟩, ⟨_, rfl, by decide +kernel⟩,
    ⟨_, rfl, by decide +kernel⟩⟩

/-- STA at the last operand, INX on the shared cell and on its register, and NOP. -/
theorem witness_OnlyTheListedInstructionsWriteMemory :
    (∃ t, exec (.sta 0xFFFF) (running 0) = .next t ∧ t.mem = [(0xFFFF, 0x81)]) ∧
    (Instr.sta 0xFFFF).op ∈ [Op.sta, .inc, .dec] ∧ (0xFFFE : Nat) ≠ (ea (Instr.sta 0xFFFF).operand).toNat ∧
    (∃ t, exec .inx (runningUnder 0 fun cfg => { cfg with indexStorage := .sharedMemory }) = .next t ∧
      t.mem = [(0xFF, 1)]) ∧
    (∃ t, exec .inx (running 0) = .next t ∧ t.mem = []) ∧
    (∃ t, exec .nop (running 0) = .next t ∧ t.mem = []) :=
  ⟨⟨_, rfl, by decide +kernel⟩, by decide, by decide +kernel, ⟨_, rfl, by decide +kernel⟩, ⟨_, rfl, by decide +kernel⟩,
    ⟨_, rfl, by decide +kernel⟩⟩

/-- A sequential instruction, a branch taken and not taken, and a jump to the last operand. -/
theorem witness_NextFetchIsTheTargetOrTheNextWord :
    (∃ t, exec .nop (running 0) = .next t ∧ t.status = .running ∧ t.pc = 1) ∧
    (∃ t, exec (.bne 9) (running 0) = .next t ∧ t.status = .running ∧ t.pc = 9) ∧
    (∃ t, exec (.beq 9) (running 0) = .next t ∧ t.status = .running ∧ t.pc = 1) ∧
    (∃ t, exec (.jmp 0xFFFF) (running 0) = .next t ∧ t.status = .running ∧ t.pc = 0xFFFF) :=
  ⟨⟨_, rfl, by decide +kernel⟩, ⟨_, rfl, by decide +kernel⟩, ⟨_, rfl, by decide +kernel⟩, ⟨_, rfl, by decide +kernel⟩⟩

/-- One fault of each of the four forms. -/
theorem witness_FaultsComeOnlyFromTheirInstructions :
    (∃ t, exec .pla State.reset = .next t ∧ t.status = .faulted) ∧
    (∃ t, exec .pha (runningUnder 0 fun cfg => { cfg with stackCapacity := some 2 }) = .next t ∧ t.status = .faulted) ∧
    (∃ t, exec .txs { (runningUnder 0 fun cfg => { cfg with txsGrowPolicy := .padZero, stackCapacity := some 2 }) with
      x := 3 } = .next t ∧ t.status = .faulted) ∧
    (∃ t, exec .txs { running 0 with x := 3 } = .next t ∧ t.status = .faulted) :=
  ⟨⟨_, rfl, by decide +kernel⟩, ⟨_, rfl, by decide +kernel⟩, ⟨_, rfl, by decide +kernel⟩, ⟨_, rfl, by decide +kernel⟩⟩

theorem witness_OnlyUnknownWordsAreCounted :
    (∃ t, step (running 0x00FF0000) = .next t ∧ (t.unkCount == 1) = true) ∧
    (∃ t, step (running 0x00390000) = .next t ∧ (t.unkCount == 0) = true) :=
  ⟨exists_of_after (by decide +kernel), exists_of_after (by decide +kernel)⟩

theorem witness_DatapathAgreesWithEveryMeaning : Instr.nop ≠ .halt := by decide

/-- An STA at PC 0 that stores to the next word. -/
theorem witness_StaStoresTheAccumulator : (1 : Operand).toNat = ((running 0).pc + 1).toNat := by decide +kernel

/-- STX, STY, PHA, PHP and JSR on a stack with room, and on one that has just reached its capacity. -/
theorem witness_StxAndStyPushTheIndexRegister :
    (running 0).cfg.stackCapacity ≠ some (running 0).stack.length ∧
    (runningUnder 0 fun cfg => { cfg with stackCapacity := some 3 }).cfg.stackCapacity ≠ some (running 0).stack.length ∧
    (runningUnder 0 fun cfg => { cfg with stackCapacity := some 2 }).cfg.stackCapacity =
      some (runningUnder 0 fun cfg => { cfg with stackCapacity := some 2 }).stack.length := by decide +kernel

theorem witness_PhaAndPhpPushTheAccumulator :
    (running 0).cfg.stackCapacity ≠ some (running 0).stack.length ∧
    (runningUnder 0 fun cfg => { cfg with stackCapacity := some 2 }).cfg.stackCapacity =
      some (runningUnder 0 fun cfg => { cfg with stackCapacity := some 2 }).stack.length :=
  ⟨witness_StxAndStyPushTheIndexRegister.1, witness_StxAndStyPushTheIndexRegister.2.2⟩

theorem witness_JsrPushesTheLinkAndJumps :
    (running 0).cfg.stackCapacity ≠ some (running 0).stack.length ∧
    (runningUnder 0 fun cfg => { cfg with stackCapacity := some 2 }).cfg.stackCapacity =
      some (runningUnder 0 fun cfg => { cfg with stackCapacity := some 2 }).stack.length :=
  witness_PhaAndPhpPushTheAccumulator

theorem witness_AdcResultAndFlags :
    ∃ m r : Word, m = (running 0).mem.read (0xFFFF : Operand).toNat ∧
      r = (running 0).a + m + (if (running 0).c then 1 else 0) := ⟨_, _, rfl, rfl⟩

theorem witness_SbcResultAndFlags :
    ∃ m r : Word, m = (running 0).mem.read (0xFFFF : Operand).toNat ∧
      r = (running 0).a - m - (1 - (if (running 0).c then 1 else 0)) := ⟨_, _, rfl, rfl⟩

/-- Both bytes at 0xFF, the end of the range. -/
theorem witness_AdcAndSbcAreByteArithmeticWithCarry :
    (0xFF : Word) = ({ running 0 with a := 0xFF, mem := [(5, 0xFF)] } : State).mem.read (5 : Operand).toNat ∧
    ({ running 0 with a := 0xFF, mem := [(5, 0xFF)] } : State).a.toNat < 256 ∧ (0xFF : Word).toNat < 256 ∧
    ({ running 0 with a := 0xFF, mem := [(5, 0xFF)] } : State).cfg.vRule = .adcSbcBit7 := by decide +kernel

theorem witness_ShiftsAndRotatesMoveOnePlace :
    (running 0).cfg.shiftWidth = .bits32 ∧
    (runningUnder 0 fun cfg => { cfg with shiftWidth := .bits8 }).cfg.shiftWidth = .bits8 ∧
    (0x81 : Word) = (runningUnder 0 fun cfg => { cfg with shiftWidth := .bits8 }).a &&& 0xFF := by decide +kernel

theorem witness_ComparesSetCarryAndCmpNarrowsA : ∃ m : Word, m = (running 0).mem.read (0 : Operand).toNat := ⟨_, rfl⟩

/-- CMP, CPX or CPY followed by BEQ 9. -/
theorem witness_BeqAfterCmpTestsTheLowBytes :
    (9 : Operand).toNat ≠ ((running 0).pc + 2).toNat ∧
    (∃ t u, exec (.cmp 0) (running 0) = .next t ∧ exec (.beq 9) t = .next u) ∧
    (∃ t u, exec (.cpx 0) (running 0) = .next t ∧ exec (.beq 9) t = .next u) ∧
    (∃ t u, exec (.cpy 0) (running 0) = .next t ∧ exec (.beq 9) t = .next u) :=
  ⟨by decide +kernel, ⟨_, _, rfl, rfl⟩, ⟨_, _, rfl, rfl⟩, ⟨_, _, rfl, rfl⟩⟩

theorem witness_IndexInstructionsUpdateTheirRegister : (running 0).cfg.indexStorage = .registers := rfl

theorem witness_SharedIndexInstructionsUpdateTheAliasCell :
    (runningUnder 0 fun cfg => { cfg with indexStorage := .sharedMemory }).cfg.indexStorage = .sharedMemory ∧
    (0xFF : Nat) = (runningUnder 0 fun cfg => { cfg with indexStorage := .sharedMemory }).cfg.indexAliasAddr.toNat := by
  decide +kernel

theorem witness_PlaPlpAndDelPopTheStack :
    (running 0).stack = [7] ++ [5] ∧ State.reset.stack = [] ∧ Instr.pla ∈ [Instr.pla, .plp, .del] := by decide +kernel

theorem witness_StackOperationsTouchOnlyTheStack :
    (∃ t, (running 0).push 9 = .ok t) ∧ (∃ w t, (running 0).pop = .ok (w, t)) ∧ (∃ t, (running 0).setSize 2 = .ok t) :=
  ⟨⟨_, rfl⟩, ⟨_, _, rfl⟩, ⟨_, rfl⟩⟩

theorem witness_SignAndOverflowBranches : ∃ n : Bool,
    n = (match (running 0).cfg.signBit with
      | .bit31 => decide ((running 0).a.toInt < 0)
      | .bit7 => (running 0).a.getLsbD 7) := ⟨_, rfl⟩

/-- A counter above 1, a counter of 1, a counter of 0 (which counts down from 0xFFFFFFFF), and an empty stack. -/
theorem witness_LoopCountsTheStackTopDown :
    (running 0).stack = [7] ++ [5] ∧ (5 : Word) ≠ 1 ∧ (0 : Word) ≠ 1 ∧
    ({ running 0 with stack := [7, 1] } : State).stack = [7] ++ [1] ∧ State.reset.stack = [] := by decide +kernel

theorem witness_RtsPopsThePc : (running 0).stack = [7] ++ [5] ∧ State.reset.stack = [] := by decide +kernel

/-- JSR 9 from address 0, and the callee's state with another A. -/
theorem witness_CallAndReturnResumeTheCaller :
    (running 0).cfg.stackCapacity ≠ some (running 0).stack.length ∧
    ∃ t u : State, exec (.jsr 9) (running 0) = .next t ∧ u = { t with a := 6 } ∧ u.stack = t.stack ∧ u.cfg = t.cfg :=
  ⟨by decide +kernel, _, _, rfl, rfl, rfl, rfl⟩

/-- LOOP 0 at address 0, with the counter 5; with the counter 0 the same hypotheses hold. -/
theorem witness_LoopEndsAfterCounterManySteps :
    (running 0x00290000).cfg.legal = true ∧ (running 0x00290000).status = .running ∧
    (running 0x00290000).pc = (0 : Operand).setWidth 32 ∧
    (running 0x00290000).pc.toInt < (running 0x00290000).cfg.pcLimit ∧
    decode (running 0x00290000).cfg ((running 0x00290000).mem.read (0 : Operand).toNat) = .ok (.loop 0) ∧
    (running 0x00290000).stack = [7] ++ [5] ∧
    ({ running 0x00290000 with stack := [7, 0] } : State).stack = [7] ++ [0] := by decide +kernel

/-- JMP 0 at address 0. -/
theorem witness_JumpToItselfRunsForever :
    (running 0x00200000).cfg.legal = true ∧ (running 0x00200000).status = .running ∧
    (running 0x00200000).pc = (0 : Operand).setWidth 32 ∧
    (running 0x00200000).pc.toInt < (running 0x00200000).cfg.pcLimit ∧
    decode (running 0x00200000).cfg ((running 0x00200000).mem.read (0 : Operand).toNat) = .ok (.jmp 0) := by
  decide +kernel

/-- X at -1, at 0 and at the size 2; one above the size under each policy; padding up to a capacity, and past it. -/
theorem witness_TxsSetsTheStackSize :
    (0xFFFFFFFF : Word).toInt < 0 ∧ 0 ≤ (0 : Word).toInt ∧ (2 : Word).toInt ≤ (running 0).stack.length ∧
    ((running 0).stack.length : Int) < (3 : Word).toInt ∧ (running 0).cfg.txsGrowPolicy = .fault ∧
    (runningUnder 0 fun cfg => { cfg with txsGrowPolicy := .noop }).cfg.txsGrowPolicy = .noop ∧
    (runningUnder 0 fun cfg => { cfg with txsGrowPolicy := .padZero }).cfg.txsGrowPolicy = .padZero ∧
    (3 : Word).toNat ≤ 3 ∧ (running 0).stack.length ≤ 3 ∧ 3 < (4 : Word).toNat ∧
    (runningUnder 0 fun cfg => { cfg with stackCapacity := some 3 }).cfg.stackCapacity = some 3 := by decide +kernel

/-- ADC makes V true from false. -/
theorem witness_FlagInstructionsWriteOneFlag :
    ∃ t, exec (.adc 1) { running 0 with a := 0x7F, c := true } = .next t ∧ (running 0).v = false ∧ t.v = true :=
  ⟨_, rfl, rfl, by decide +kernel⟩

theorem witness_NoEffectInstructionsOnlyAdvanceThePc :
    Instr.cld ∈ [Instr.cld, .cli, .sed, .sei, .nop, .rti, .bit] := by decide

theorem witness_HaltStopsCleanly :
    (running 0).cfg.haltPcAdvance = false ∧
    (runningUnder 0 fun cfg => { cfg with haltPcAdvance := true }).cfg.haltPcAdvance = true := by decide +kernel

end Sys2Proof.Tests
end

section
/-! The invariant `State.Inv` through each way a step can end: a fault taken, HALT, an unknown word, and an execute phase with its PC advance. -/
namespace Sys2Proof.Machine

/-- R35: a running machine with the invariant holds no fault record. -/
theorem State.Inv.fault_eq_none {s : State} (h : s.Inv) (hr : s.status = .running) : s.fault = none := by
  have hne : ¬ s.fault.isSome := fun hs => by simpa [hr] using h.record.mpr hs
  simpa using hne

/-- R304: taking a fault keeps the invariant when its record fits the state before. -/
theorem State.Inv.takeFault {s : State} {k : FaultKind} {o : Option Opcode} (h : s.Inv)
    (hf : FaultRecord.Fits { kind := k, opcode := o, pc := s.pc } s) : (s.takeFault k o).Inv where
  parameters := h.parameters
  memory := h.memory
  record := by simp
  fits r hr := by
    obtain rfl : _ = r := Option.some.inj hr
    exact ⟨hf.pc, hf.opcode, hf.division, hf.unknown, hf.overflow⟩
  depth := h.depth
  overflowNever := h.overflowNever
  count := h.count

/-- R290: HALT keeps the invariant of a running machine. -/
theorem State.Inv.halt {s : State} (h : s.Inv) (hr : s.status = .running) : s.halt.Inv where
  parameters := h.parameters
  memory := h.memory
  record := by simp [h.fault_eq_none hr]
  fits r hf := by simp [h.fault_eq_none hr] at hf
  depth := h.depth
  overflowNever := h.overflowNever
  count := h.count

/-- A phase that keeps what every phase keeps carries the invariant of a running machine over. -/
theorem State.Inv.of_keeps {s u : State} (h : s.Inv) (hr : s.status = .running) (hk : u.Keeps s) : u.Inv where
  parameters := hk.cfg ▸ h.parameters
  memory := hk.memory h.memory
  record := by rw [hk.status, hk.fault]; exact h.record
  fits r hf := by simp [hk.fault, h.fault_eq_none hr] at hf
  depth n hn := by
    rw [hk.cfg] at hn
    exact hk.depth n hn (h.depth n hn)
  overflowNever hv := by
    rw [hk.cfg] at hv
    exact hk.overflow hv (h.overflowNever hv)
  count hm := by
    rw [hk.cfg] at hm
    rw [hk.unkCount, h.count hm]

/-- R293: the record of an unknown word fits a machine in strict mode. -/
theorem FaultRecord.Fits.ofUnknownWord {s : State} (opc : Opcode) (hm : s.cfg.unknownOpcodeMode = .strict) :
    FaultRecord.Fits { kind := .unknownOpcode, opcode := some opc, pc := s.pc } s :=
  ⟨rfl, by simp, by simp, fun _ => hm, by simp⟩

/-- R302: the record of a failed PC check, which has no opcode, fits every state. -/
theorem FaultRecord.Fits.ofPcCheck (s : State) :
    FaultRecord.Fits { kind := .outOfRangeProgramCounter, opcode := none, pc := s.pc } s :=
  ⟨rfl, by simp, by simp, by simp, by simp⟩

/-- R301, R305, R306: the record of a fault that an execute phase raises fits the state the phase began in. -/
theorem FaultRecord.Fits.ofPhase {s : State} {k : FaultKind} (opc : Opcode) (hk : k.OfPhase s) :
    FaultRecord.Fits { kind := k, opcode := some opc, pc := s.pc } s := by
  rcases hk with rfl | rfl | ⟨rfl, hfinite⟩
  · exact ⟨rfl, by simp, by simp, by simp, by simp⟩
  · exact ⟨rfl, by simp, by simp, by simp, by simp⟩
  · exact ⟨rfl, by simp, by simp, by simp, fun _ => hfinite⟩

theorem State.unknownWord_lenient {s : State} (opc : Opcode) (hm : s.cfg.unknownOpcodeMode = .lenient) :
    s.unknownWord opc = { s with unkCount := s.unkCount + 1, pc := s.pc + 1 } := by
  simp [State.unknownWord, hm]

theorem State.unknownWord_strict {s : State} (opc : Opcode) (hm : s.cfg.unknownOpcodeMode = .strict) :
    s.unknownWord opc = s.takeFault .unknownOpcode (some opc) := by
  simp [State.unknownWord, hm]

/-- R292, R293: an unknown word keeps the invariant of a running machine: it is counted in lenient mode, a fault in strict mode. -/
theorem State.Inv.unknownWord {s : State} (opc : Opcode) (h : s.Inv) (hr : s.status = .running) :
    (s.unknownWord opc).Inv := by
  cases hm : s.cfg.unknownOpcodeMode with
  | lenient =>
    rw [State.unknownWord_lenient opc hm]
    exact {
      parameters := h.parameters
      memory := h.memory
      record := h.record
      fits := fun r hf => by simp [h.fault_eq_none hr] at hf
      depth := h.depth
      overflowNever := h.overflowNever
      count := fun hs => by simp [hm] at hs }
  | strict =>
    rw [State.unknownWord_strict opc hm]
    exact h.takeFault (.ofUnknownWord opc hm)

/-- Every instruction keeps the invariant of a running machine. -/
theorem State.Inv.exec {s t : State} {i : Instr} (h : s.Inv) (hr : s.status = .running)
    (he : exec i s = .next t) : t.Inv := by
  rcases exec_cases he with ⟨-, rfl⟩ | ⟨-, k, hk, rfl⟩ | ⟨-, u, hu, rfl⟩
  · exact h.halt hr
  · exact h.takeFault (.ofPhase _ hk)
  · exact h.of_keeps hr ((State.Keeps.advance u i.op).trans hu)

/-- Settles O19, by the ways a step can end (`step_cases`). -/
theorem stepKeepsTheInvariant : Obligations.StepKeepsTheInvariant := by
  intro s t h hstep
  obtain ⟨-, ⟨-, rfl⟩ | ⟨-, -, rfl⟩ | ⟨hr, -, u, -, rfl⟩ | ⟨hr, -, i, -, he⟩⟩ := step_cases hstep
  · exact h
  · exact h.takeFault (.ofPcCheck s)
  · exact h.unknownWord _ hr
  · exact h.exec hr he

end Sys2Proof.Machine
end

section
/-! Words written out as numbers, read by the decoder and made by the assembler, under the default parameters (00_scope.md R7). Each fact is one closed evaluation of the model. -/
namespace Sys2Proof

/-- A whole program, item by item: LOAD and STORE are the aliases of LDA and STA, and HALT's omitted operand is 0 (R85, R92). -/
theorem assembleProgram_loadAddStoreHalt :
    assembleProgram Config.reference [("LOAD", some 10), ("ADD", some 20), ("STORE", some 0), ("HALT", none)] =
      some [0x0001000A, 0x00070014, 0x00020000, 0x00000000] := by
  have hload : assembleItem Config.reference "LOAD" (some 10) = some 0x0001000A := by decide
  have hadd : assembleItem Config.reference "ADD" (some 20) = some 0x00070014 := by decide
  have hstore : assembleItem Config.reference "STORE" (some 0) = some 0x00020000 := by decide
  have hhalt : assembleItem Config.reference "HALT" none = some 0x00000000 := by decide
  simp only [assembleProgram, hload, hadd, hstore, hhalt]

/-- Settles O1: each written word is decoded, and each item assembled, by evaluation. -/
theorem writtenWordsDecodeAndAssemble : Obligations.WrittenWordsDecodeAndAssemble := by
  unfold Obligations.WrittenWordsDecodeAndAssemble
  refine ⟨?halt, ?lda, ?add, ?cpx, ?inc, ?pla, ?jmp, ?nop, ?unusedNumber, ?highByte, ?wideOperand, ?program⟩
  case halt | lda | add | cpx | inc | pla | jmp | nop => decide
  case unusedNumber | highByte => decide
  case wideOperand => decide
  case program => exact assembleProgram_loadAddStoreHalt

end Sys2Proof
end

section
/-! The stack controller's effect on the rest of the state, and its round trip (10_state.md R40 to R46). -/
namespace Sys2Proof.Machine

/-- A push that succeeds appends its value to the stack. -/
theorem State.eq_setStack_of_push {s t : State} {w : Word} (h : s.push w = .ok t) :
    t = s.setStack (s.stack ++ [w]) := by
  obtain ⟨-, hp⟩ | ⟨-, hp⟩ := s.push_cases w <;> rw [hp] at h <;> cases h
  rfl

/-- A pop that succeeds found its value on top and leaves the entries below. -/
theorem State.eq_setStack_of_pop {s t : State} {w : Word} (h : s.pop = .ok (w, t)) :
    s.stack = t.stack ++ [w] ∧ t = s.setStack t.stack := by
  obtain he | ⟨rest, v, he⟩ := s.stack_cases
  · rw [State.pop_empty he] at h; cases h
  · rw [State.pop_append he] at h; cases h
    exact ⟨he, rfl⟩

/-- A change of the stack's size that succeeds writes the stack alone. -/
theorem State.eq_setStack_of_setSize {s t : State} {n : Word} (h : s.setSize n = .ok t) :
    t = s.setStack t.stack := by
  obtain ⟨-, hn⟩ | ⟨-, -, hn⟩ | ⟨-, -, hn⟩ | ⟨-, -, hn⟩ | ⟨-, -, hn⟩ := s.setSize_cases n <;> rw [hn] at h
  · cases h
  · cases h; rfl
  · cases h
  · cases h; rfl
  · obtain ⟨hz, -⟩ | ⟨hz, -⟩ := State.pushZeros_cases (n.toNat - s.stack.length) s <;> rw [hz] at h <;> cases h
    rfl

/-- R46: a pop right after a successful push gives the pushed value and the state before the push. -/
theorem State.pop_of_push {s t : State} {w : Word} (h : s.push w = .ok t) : t.pop = .ok (w, s) := by
  obtain rfl := State.eq_setStack_of_push h
  exact State.pop_append rfl

/-- Settles O45: one clause per stack operation. -/
theorem stackOperationsTouchOnlyTheStack : Obligations.StackOperationsTouchOnlyTheStack := by
  unfold Obligations.StackOperationsTouchOnlyTheStack
  refine ⟨?push, ?pop, ?replaceTop, ?setSize, ?clear⟩
  case push =>
    intro s t w h
    refine ⟨?_, s, State.pop_of_push h, rfl, rfl⟩
    rw [State.eq_setStack_of_push h]; rfl
  case pop => exact fun s t w h => (State.eq_setStack_of_pop h).2
  case replaceTop => exact fun s w => rfl
  case setSize => exact fun s t n h => State.eq_setStack_of_setSize h
  case clear => exact fun s => rfl

end Sys2Proof.Machine
end

section
/-! The parameters, the run status and the unknown-word counter over one step, and the report it makes (10_state.md R34, R36, R48, R51). -/
namespace Sys2Proof.Machine

/-- R84: the word that a PC in range fetches is the Word at the PC, so a step decodes that Word. -/
theorem decode_fetchWord {s : State} (h : pcInRange s.cfg s.pc = true) :
    decode s.cfg s.fetchWord = decode s.cfg (s.mem.read s.pc.toNat) := by rw [State.fetchWord_eq h]

/-- An instruction ends in one of three ways: a fault is taken, HALT halts, or what every phase keeps is kept. -/
theorem exec_end {i : Instr} {s t : State} (h : exec i s = .next t) :
    (∃ k o, t = s.takeFault k o) ∨ t = s.halt ∨ t.Keeps s := by
  obtain ⟨-, ht⟩ | ⟨-, k, -, ht⟩ | ⟨-, u, hu, rfl⟩ := exec_cases h
  · exact .inr (.inl ht)
  · exact .inl ⟨k, _, ht⟩
  · exact .inr (.inr ((State.Keeps.advance u i.op).trans hu))

/-- A step of a running machine ends in one of four ways: a fault is taken, HALT halts, an instruction completes, or an unknown word is counted in lenient mode. -/
inductive StepEnd (s : State) : State → Prop where
  | faulted (k : FaultKind) (o : Option Opcode) : StepEnd s (s.takeFault k o)
  | halted : StepEnd s s.halt
  | completed {t : State} {i : Instr} (hd : decode s.cfg (s.mem.read s.pc.toNat) = .ok i) (hk : t.Keeps s) :
      StepEnd s t
  | counted {u : Unknown} (hm : s.cfg.unknownOpcodeMode = .lenient)
      (hw : s.fetchWord = s.mem.read s.pc.toNat) (hd : decode s.cfg (s.mem.read s.pc.toNat) = .error u) :
      StepEnd s { s with unkCount := s.unkCount + 1, pc := s.pc + 1 }

/-- A step stays in a terminal status, or ends in one of the ways of a running machine. -/
theorem step_end {s t : State} (h : step s = .next t) :
    s.terminal ∧ t = s ∨ s.status = .running ∧ StepEnd s t := by
  obtain ⟨-, ⟨hs, rfl⟩ | ⟨hr, -, rfl⟩ | ⟨hr, hp, u, hd, rfl⟩ | ⟨hr, hp, i, hd, he⟩⟩ := step_cases h
  · exact .inl ⟨hs, rfl⟩
  · exact .inr ⟨hr, .faulted _ _⟩
  · refine .inr ⟨hr, ?_⟩
    cases hm : s.cfg.unknownOpcodeMode with
    | lenient =>
      rw [State.unknownWord_lenient _ hm]
      exact .counted hm (State.fetchWord_eq hp) (decode_fetchWord hp ▸ hd)
    | strict =>
      rw [State.unknownWord_strict _ hm]
      exact .faulted _ _
  · refine .inr ⟨hr, ?_⟩
    obtain ⟨k, o, rfl⟩ | rfl | hk := exec_end he
    · exact .faulted k o
    · exact .halted
    · exact .completed (decode_fetchWord hp ▸ hd) hk

/-- R48: no way a step can end changes the parameters. -/
theorem StepEnd.cfg {s t : State} (h : StepEnd s t) : t.cfg = s.cfg := by
  cases h with
  | faulted | halted | counted => rfl
  | completed _ hk => exact hk.cfg

/-- Settles O21: a terminal state steps to itself, and no step of a running one writes the parameters. -/
theorem parametersAndTerminalStatusStay : Obligations.ParametersAndTerminalStatusStay := by
  intro s t h
  obtain ⟨-, rfl⟩ | ⟨hr, he⟩ := step_end h
  · exact ⟨rfl, fun _ => rfl⟩
  · exact ⟨he.cfg, fun hs => absurd hr hs⟩

/-- Settles O28: of the ways a step can end, only the counted unknown word moves the counter. -/
theorem onlyUnknownWordsAreCounted : Obligations.OnlyUnknownWordsAreCounted := by
  intro s t h
  have same {n m : Nat} {p : Prop} (hn : n = m) : (n = m ∨ n = m + 1) ∧ (n = m + 1 → p) :=
    ⟨.inl hn, fun hs => by omega⟩
  obtain ⟨-, rfl⟩ | ⟨hr, he⟩ := step_end h
  · exact same rfl
  · cases he with
    | faulted => exact same rfl
    | halted => exact same rfl
    | completed _ hk => exact same hk.unkCount
    | counted hm _ hd => exact ⟨.inr rfl, fun _ => ⟨hr, hm, _, hd⟩⟩

theorem stepReport_of_step {s t : State} (h : step s = .next t) : stepReport s = some (reportOf s t) := by
  simp [stepReport, h]

/-- The report of a running machine whose step left a fault record. -/
theorem reportOf_of_fault {s t : State} {r : FaultRecord} (hr : s.status = .running) (hf : t.fault = some r) :
    reportOf s t = .faultedNow r := by simp [reportOf, hr, hf]

theorem reportOf_of_halted {s t : State} (hr : s.status = .running) (hf : t.fault = none)
    (ht : t.status = .halted) : reportOf s t = .haltedNow := by simp [reportOf, hr, hf, ht]

theorem reportOf_of_sameCount {s t : State} (hr : s.status = .running) (hf : t.fault = none)
    (ht : t.status = .running) (hc : t.unkCount = s.unkCount) : reportOf s t = .stepped := by
  simp [reportOf, hr, hf, ht, hc]

theorem reportOf_of_newCount {s t : State} (hr : s.status = .running) (hf : t.fault = none)
    (ht : t.status = .running) (hc : t.unkCount ≠ s.unkCount) :
    reportOf s t = .unknownReported (opcField s.fetchWord) s.pc := by simp [reportOf, hr, hf, ht, hc]

/-- Settles O11: each way a step can end has its one report; the other clauses speak of another status or another reading of the Word. -/
theorem stepReportsWhatItDid : Obligations.StepReportsWhatItDid := by
  intro s t _ hr hf h
  rw [stepReport_of_step h]
  obtain ⟨hs, -⟩ | ⟨-, he⟩ := step_end h
  · exact absurd hr hs
  cases he with
  | faulted k o => simp [reportOf_of_fault hr (State.takeFault_fault s k o)]
  | halted =>
    have hrep : reportOf s s.halt = .haltedNow := reportOf_of_halted hr hf rfl
    simp [hrep]
  | completed hd hk =>
    have ht : t.status = .running := hk.status.trans hr
    simp [ht, hd, reportOf_of_sameCount hr (hk.fault.trans hf) ht hk.unkCount]
  | counted hm hw hd =>
    have hrep : reportOf s { s with unkCount := s.unkCount + 1, pc := s.pc + 1 } =
        .unknownReported (opcField s.fetchWord) s.pc := reportOf_of_newCount hr hf hr (by simp)
    rw [hrep, hw]
    simp [hr, hd]

end Sys2Proof.Machine
end

section
/-! The reset values, and the invariant of every machine just reset or loaded (10_state.md R52, 70_reset_and_hazards.md R330, R331). -/
namespace Sys2Proof.Machine

/-- Settles O12: reset is the written-out state, its memory lists no cell, and the host's reset writes each core field. -/
theorem resetGivesTheResetValues : Obligations.ResetGivesTheResetValues := by
  unfold Obligations.ResetGivesTheResetValues
  refine ⟨?values, ?memory, ?hostReset⟩
  case values => rfl
  case memory => exact Memory.read_nil
  case hostReset => exact fun s => rfl

/-- R330: the host's reset gives the invariant to every machine with legal parameters and a canonical memory. -/
theorem State.Inv.coreReset {s : State} (hl : s.cfg.legal = true) (hm : s.mem.wf) : s.coreReset.Inv where
  parameters := hl
  memory := hm
  record := by simp
  fits r hr := by simp at hr
  depth n _ := by simp
  overflowNever _ := rfl
  count _ := rfl

/-- R7: the default parameters are legal, the reference map among them (R86). -/
theorem Config.legal_reference : Config.reference.legal = true := by decide +kernel

/-- R331: an image is stored in canonical form, whatever its length. -/
theorem storeImage_wf {m : Memory} (image : List Word) (n : Nat) (h : m.wf) : (storeImage image n m).wf := by
  induction image generalizing n m with
  | nil => exact h
  | cons w ws ih => exact ih (n + 1) (Memory.wf_write w h (BitVec.isLt _))

/-- R331: an overlay is stored in canonical form. -/
theorem storeOverlay_wf {m : Memory} (overlay : List (Addr × Word)) (h : m.wf) : (storeOverlay overlay m).wf := by
  induction overlay generalizing m with
  | nil => exact h
  | cons cell rest ih => exact ih (Memory.wf_write cell.2 h cell.1.isLt)

/-- R331: a load is a reset of the machine that holds the image under the overlay. -/
theorem State.load_eq_coreReset (s : State) (image : List Word) (overlay : List (Addr × Word)) :
    s.load image overlay = State.coreReset { s with mem := storeOverlay overlay (storeImage image 0 []) } := rfl

/-- Settles O20: both are resets over a canonical memory, the empty one and the loaded one. -/
theorem resetAndLoadHaveTheInvariant : Obligations.ResetAndLoadHaveTheInvariant := by
  refine ⟨?reset, ?load⟩
  case reset => exact State.Inv.coreReset (s := State.reset) Config.legal_reference Memory.wf_nil
  case load =>
    intro s image overlay hl
    rw [State.load_eq_coreReset]
    exact State.Inv.coreReset hl (storeOverlay_wf overlay (storeImage_wf image 0 Memory.wf_nil))

end Sys2Proof.Machine
end

section
/-! The index instructions on the shared cell (10_state.md R22). -/
namespace Sys2Proof.Machine

/-- R22: under `INDEX_STORAGE = shared_memory` an index operation ends with the one cell updated and the PC advanced. -/
theorem endInstr_updateIndex_shared {s : State} {op : Op} (r : State) (f : Word → Word) (hop : op ≠ .rts)
    (h : s.cfg.indexStorage = .sharedMemory) :
    endInstr op s (.ok (s.updateIndex r f)) =
      .next { s with
        mem := s.mem.write s.cfg.indexAliasAddr.toNat (f (s.mem.read s.cfg.indexAliasAddr.toNat))
        pc := s.pc + 1 } := by
  rw [State.updateIndex_shared r f h, endInstr_ok, State.advance_of_ne _ hop]
  simp [State.updateCell, State.memWrite, State.setPc, aliasAddr]

/-- Settles O42: each of the four is that operation with its own function. -/
theorem sharedIndexInstructionsUpdateTheAliasCell : Obligations.SharedIndexInstructionsUpdateTheAliasCell := by
  rintro s _ h rfl
  refine ⟨?inx, ?iny, ?dex, ?dey⟩
  all_goals exact endInstr_updateIndex_shared _ _ (by decide) h

end Sys2Proof.Machine
end

section
/-! The control-word table (30_encoding.md R93) agrees with the meanings: the execute phase of every instruction but HALT is the datapath driven by its control word. -/
namespace Sys2Proof.Machine

/-- The ALU's outputs in the phase of a control word, with `top` from the stack controller. -/
def datapathAlu (cw : ControlWord) (v : Operand) (s : State) (top : Word) : AluOut :=
  aluOut cw.alu s (s.memRead (cw.rd.addr v s.cfg)) top

/-- The writes of a phase begun in `s` that follow the stack controller's, which left `t`: flags, writeback, PC. -/
def datapathWrite (cw : ControlWord) (v : Operand) (s : State) (top : Word) (t : State) : State :=
  let out := datapathAlu cw v s top
  let flagged := (t.setC (cw.c.next s.cfg.vRule out.carry s.c)).setV (cw.v.next s.cfg.vRule out.overflow s.v)
  pcStage cw.pc v (cw.pc.taken s out.value) top (writebackStage cw.wb cw.wr v out.value flagged)

section
variable {cw : ControlWord} {v : Operand} {s : State} {k : FaultKind} {top : Word}

theorem datapath_of_stackOut_error (h : stackOut cw.stk s = .error k) : datapath cw v s = .error k := by
  simp [datapath, h]

theorem datapath_of_stackStage (h : stackOut cw.stk s = .ok top) :
    datapath cw v s =
      (stackStage cw.stk (datapathAlu cw v s top).value s).map (datapathWrite cw v s top) := by
  cases hs : stackStage cw.stk (datapathAlu cw v s top).value s <;> rw [datapathAlu] at hs <;>
    simp [datapath, h, hs] <;> rfl

/-- A push, and what is written around it, is the phase of a control word that writes the same. -/
theorem push_map_eq_datapath {w : Word} {f : State → State} (hs : cw.stk = .push)
    (hw : (datapathAlu cw v s 0).value = w)
    (hf : ∀ l, f (s.setStack l) = datapathWrite cw v s 0 (s.setStack l)) :
    (s.push w).map f = datapath cw v s := by
  rw [datapath_of_stackStage (top := 0) (by rw [hs]; rfl), hs, hw]
  show (s.push w).map f = (s.push w).map (datapathWrite cw v s 0)
  obtain ⟨-, h⟩ | ⟨-, h⟩ := s.push_cases w <;> rw [h]
  · rfl
  · exact congrArg Except.ok (hf _)

theorem push_eq_datapath {w : Word} (hs : cw.stk = .push) (hw : (datapathAlu cw v s 0).value = w)
    (hf : ∀ l, s.setStack l = datapathWrite cw v s 0 (s.setStack l)) : s.push w = datapath cw v s := by
  rw [← push_map_eq_datapath (f := id) hs hw hf, Except.map_id]; rfl

theorem popInto_eq_datapath {f : State → Word → State} (hs : cw.stk = .pop)
    (hf : ∀ l w, f (s.setStack l) w = datapathWrite cw v s w (s.setStack l)) :
    s.popInto f = datapath cw v s := by
  obtain h | ⟨rest, w, h⟩ := s.stack_cases
  · rw [State.popInto_empty f h, datapath_of_stackOut_error (by rw [hs]; exact State.top_empty h)]
  · rw [State.popInto_append f h, datapath_of_stackStage (top := w) (by rw [hs]; exact State.top_append h), hs, hf]
    simp [stackStage, State.popInto_append _ h, Except.map]
end

theorem State.loopPhase_empty {s : State} (v : Operand) (h : s.stack = []) :
    s.loopPhase v = .error .stackUnderflow := by simp [State.loopPhase, State.top_empty h]

/-- R220: a top that counts down to 0 is popped, and LOOP falls through. -/
theorem State.loopPhase_last {s : State} {rest : List Word} {w : Word} (v : Operand) (h : s.stack = rest ++ [w])
    (hw : w - 1 = 0) : s.loopPhase v = .ok (s.setStack rest) := by
  simp only [State.loopPhase, State.top_append h, hw, ne_eq, not_true, if_false, State.popInto_append _ h]

/-- R220: a top that counts down to another value is written back, and LOOP branches. -/
theorem State.loopPhase_again {s : State} {rest : List Word} {w : Word} (v : Operand) (h : s.stack = rest ++ [w])
    (hw : w - 1 ≠ 0) : s.loopPhase v = .ok ((s.replaceTop (w - 1)).branchIf true v) := by
  simp only [State.loopPhase, State.top_append h, if_pos hw]

theorem loopPhase_eq_datapath (s : State) (v : Operand) : s.loopPhase v = datapath (controlWord .loop) v s := by
  obtain h | ⟨rest, w, h⟩ := s.stack_cases
  · rw [State.loopPhase_empty v h]
    exact (datapath_of_stackOut_error (cw := controlWord .loop) (State.top_empty h)).symm
  have hd : datapath (controlWord .loop) v s =
      (stackStage .countDown (w - 1) s).map (datapathWrite (controlWord .loop) v s w) :=
    datapath_of_stackStage (State.top_append h)
  have hwrite (t : State) (ht : t = s.setStack t.stack) :
      datapathWrite (controlWord .loop) v s w t = t.branchIf (w - 1 != 0) v := by rw [ht]; rfl
  rw [hd, stackStage]
  by_cases hw : w - 1 = 0
  · rw [State.loopPhase_last v h hw, if_pos hw, State.popInto_append _ h]
    exact congrArg Except.ok (by rw [hwrite _ rfl, hw]; rfl)
  · rw [State.loopPhase_again v h hw, if_neg hw]
    exact congrArg Except.ok (by rw [hwrite _ rfl, bne_iff_ne.mpr hw])

theorem setSize_eq_datapath (s : State) (v : Operand) : s.setSize s.x = datapath (controlWord .txs) v s := by
  rw [datapath_of_stackStage (top := 0) rfl]
  show s.setSize s.x = (s.setSize s.x).map _
  cases h : s.setSize s.x with
  | error k => rfl
  | ok t => rw [State.eq_setStack_of_setSize h]; rfl

/-- R22: an index operation on its register or the shared cell, as one write of the value made from whichever was read. -/
theorem State.updateIndex_eq_write (s : State) (reg : Word) (set : State → Word → State) (f : Word → Word) :
    s.updateIndex (set s (f reg)) f =
      s.updateIndex (set s (f (indexInput s reg (s.memRead (aliasAddr s.cfg)))))
        fun _ => f (indexInput s reg (s.memRead (aliasAddr s.cfg))) := by
  cases h : s.cfg.indexStorage <;> simp [State.updateIndex, State.updateCell, indexInput, h]

/-- Every instruction but HALT ends the phase its control word drives. -/
theorem exec_eq_datapath (i : Instr) (s : State) (hi : i ≠ .halt) :
    exec i s = endInstr i.op s (datapath (controlWord i.op) i.operand s) := by
  cases i with
  | halt => exact absurd rfl hi
  | stx | sty | pha | php => exact congrArg (endInstr _ s) (push_eq_datapath rfl rfl fun _ => rfl)
  | jsr v => exact congrArg (endInstr _ s) (push_map_eq_datapath rfl rfl fun _ => rfl)
  | pla | plp | del | rts => exact congrArg (endInstr _ s) (popInto_eq_datapath rfl fun _ _ => rfl)
  | loop v => exact congrArg (endInstr _ s) (loopPhase_eq_datapath s v)
  | txs => exact congrArg (endInstr _ s) (setSize_eq_datapath s 0)
  | inx => exact congrArg (fun u => endInstr .inx s (.ok u)) (s.updateIndex_eq_write s.x State.setX (· + 1))
  | iny => exact congrArg (fun u => endInstr .iny s (.ok u)) (s.updateIndex_eq_write s.y State.setY (· + 1))
  | dex => exact congrArg (fun u => endInstr .dex s (.ok u)) (s.updateIndex_eq_write s.x State.setX (· - 1))
  | dey => exact congrArg (fun u => endInstr .dey s (.ok u)) (s.updateIndex_eq_write s.y State.setY (· - 1))
  | lda v | ldx v | ldy v | sta v => rfl
  | add v | sub v | adc v | sbc v | and v | ora v | eor v | asl | lsr | rol | ror => rfl
  | cmp v | cpx v | cpy v | inc v | dec v => rfl
  | jmp v | beq v | bne v | bmi v | bpl v | bcc v | bcs v | bvc v | bvs v => rfl
  | tax | tay | txa | tya | tsx | clc | sec | clv => rfl
  | cld | cli | sed | sei | nop | rti | bit => rfl

end Sys2Proof.Machine
end

section
/-! The frame of an instruction, read from its control word (30_encoding.md R93): which registers, flags and stack entries it can change, and where the PC goes. -/
namespace Sys2Proof.Machine

/-! ### What each stage of the datapath writes -/

/-- All that the writeback mux can do: write its register, or memory alone. -/
theorem writebackStage_cases (wb : Writeback) (wr : PortUse) (v : Operand) (w : Word) (s : State) :
    (wb = .a ∧ writebackStage wb wr v w s = s.setA w) ∨
    ((wb = .x ∨ wb = .xShared ∧ s.cfg.indexStorage = .registers) ∧ writebackStage wb wr v w s = s.setX w) ∨
    ((wb = .y ∨ wb = .yShared ∧ s.cfg.indexStorage = .registers) ∧ writebackStage wb wr v w s = s.setY w) ∨
    ∃ m, writebackStage wb wr v w s = { s with mem := m } := by
  cases wb with
  | a => exact .inl ⟨rfl, rfl⟩
  | x => exact .inr (.inl ⟨.inl rfl, rfl⟩)
  | y => exact .inr (.inr (.inl ⟨.inl rfl, rfl⟩))
  | none | stackTop | pc | status | mem => exact .inr (.inr (.inr ⟨_, rfl⟩))
  | xShared =>
    cases h : s.cfg.indexStorage with
    | registers => exact .inr (.inl ⟨.inr ⟨rfl, rfl⟩, State.updateIndex_registers _ _ h⟩)
    | sharedMemory => exact .inr (.inr (.inr ⟨_, State.updateIndex_shared _ _ h⟩))
  | yShared =>
    cases h : s.cfg.indexStorage with
    | registers => exact .inr (.inr (.inl ⟨.inr ⟨rfl, rfl⟩, State.updateIndex_registers _ _ h⟩))
    | sharedMemory => exact .inr (.inr (.inr ⟨_, State.updateIndex_shared _ _ h⟩))

/-- The PC logic writes the PC alone. -/
theorem pcStage_eq_setPc (u : PcUse) (v : Operand) (taken : Bool) (top : Word) (s : State) :
    ∃ p, pcStage u v taken top s = s.setPc p := by
  cases u with
  | seq | none => exact ⟨s.pc, rfl⟩
  | popped => exact ⟨top, rfl⟩
  | branch cond => cases taken <;> exact ⟨_, rfl⟩

/-- The stack controller writes the stack alone. -/
theorem stackStage_eq_setStack {u : StackUse} {value : Word} {s t : State} (h : stackStage u value s = .ok t) :
    t = s.setStack t.stack := by
  have hpop (h : s.popInto (fun t _ => t) = .ok t) : t = s.setStack t.stack := by
    obtain ⟨-, hp⟩ | ⟨rest, w, -, hp⟩ := s.popInto_cases fun t _ => t <;> rw [hp] at h <;> cases h
    rfl
  cases u with
  | none | size => cases h; rfl
  | push => rw [State.eq_setStack_of_push h]; rfl
  | pop => exact hpop h
  | countDown =>
    by_cases hv : value = 0
    · exact hpop (by simpa [stackStage, hv] using h)
    · rw [stackStage, if_neg hv] at h
      cases h; rfl
  | setSize => exact State.eq_setStack_of_setSize h

/-- A phase that succeeds is the stack controller's stage and then the writes of the others. -/
theorem datapath_ok {cw : ControlWord} {v : Operand} {s u : State} (h : datapath cw v s = .ok u) :
    ∃ top t, stackOut cw.stk s = .ok top ∧ stackStage cw.stk (datapathAlu cw v s top).value s = .ok t ∧
      u = datapathWrite cw v s top t := by
  cases hout : stackOut cw.stk s with
  | error k => rw [datapath_of_stackOut_error hout] at h; cases h
  | ok top =>
    rw [datapath_of_stackStage hout] at h
    cases hstage : stackStage cw.stk (datapathAlu cw v s top).value s with
    | error k => rw [hstage] at h; cases h
    | ok t => rw [hstage] at h; cases h; exact ⟨top, t, rfl, hstage, rfl⟩

/-! ### Registers and flags -/

/-- What a step driven by a control word leaves of the registers and flags that its columns `wb`, `C` and `V` do not name. -/
structure ControlWord.Frame (cw : ControlWord) (s t : State) : Prop where
  a : cw.wb ≠ .a → t.a = s.a
  x : cw.wb ≠ .x → (cw.wb = .xShared → s.cfg.indexStorage = .sharedMemory) → t.x = s.x
  y : cw.wb ≠ .y → (cw.wb = .yShared → s.cfg.indexStorage = .sharedMemory) → t.y = s.y
  c : cw.c = .no → t.c = s.c
  v : t.v = s.v ∨ ∃ new, t.v = cw.v.next s.cfg.vRule new s.v

theorem datapathWrite_frame (cw : ControlWord) (v : Operand) (s : State) (top : Word) (l : List Word) :
    cw.Frame s (datapathWrite cw v s top (s.setStack l)) := by
  unfold datapathWrite
  set out := datapathAlu cw v s top
  set flagged := ((s.setStack l).setC (cw.c.next s.cfg.vRule out.carry s.c)).setV
    (cw.v.next s.cfg.vRule out.overflow s.v)
  obtain ⟨p, hp⟩ := pcStage_eq_setPc cw.pc v (cw.pc.taken s out.value) top
    (writebackStage cw.wb cw.wr v out.value flagged)
  rw [hp]
  have hc (h : cw.c = .no) : flagged.c = s.c := by simp [flagged, h, FlagUse.next]
  have hv : flagged.v = s.v ∨ ∃ new, flagged.v = cw.v.next s.cfg.vRule new s.v := .inr ⟨_, rfl⟩
  obtain ⟨hwb, hw⟩ | ⟨hwb, hw⟩ | ⟨hwb, hw⟩ | ⟨m, hw⟩ := writebackStage_cases cw.wb cw.wr v out.value flagged <;>
    rw [hw]
  · exact ⟨fun h => absurd hwb h, fun _ _ => rfl, fun _ _ => rfl, hc, hv⟩
  · refine ⟨fun _ => rfl, fun hx hxs => ?_, fun _ _ => rfl, hc, hv⟩
    obtain hwb | ⟨hwb, hi⟩ := hwb
    · exact absurd hwb hx
    · exact absurd (hi.symm.trans (hxs hwb)) (by decide)
  · refine ⟨fun _ => rfl, fun _ _ => rfl, fun hy hys => ?_, hc, hv⟩
    obtain hwb | ⟨hwb, hi⟩ := hwb
    · exact absurd hwb hy
    · exact absurd (hi.symm.trans (hys hwb)) (by decide)
  · exact ⟨fun _ => rfl, fun _ _ => rfl, fun _ _ => rfl, hc, hv⟩

/-- All that an instruction can do, in the terms of its control word. -/
theorem exec_datapath_cases {i : Instr} {s t : State} (h : exec i s = .next t) :
    (i = .halt ∧ t = s.halt) ∨ (∃ k o, t = s.takeFault k o) ∨
    (i ≠ .halt ∧ ∃ u, datapath (controlWord i.op) i.operand s = .ok u ∧ t = u.advance i.op) := by
  by_cases hi : i = .halt
  · subst hi
    exact .inl ⟨rfl, by simpa [exec, execHalt] using h.symm⟩
  · rw [exec_eq_datapath i s hi] at h
    obtain ⟨k, -, ht⟩ | ⟨u, hu, ht⟩ := endInstr_cases h
    · exact .inr (.inl ⟨k, _, ht⟩)
    · exact .inr (.inr ⟨hi, u, hu, ht⟩)

/-- R93: every instruction has the frame of its control word. -/
theorem exec_frame {i : Instr} {s t : State} (h : exec i s = .next t) : (controlWord i.op).Frame s t := by
  obtain ⟨-, rfl⟩ | ⟨k, o, rfl⟩ | ⟨-, u, hu, rfl⟩ := exec_datapath_cases h
  · exact ⟨fun _ => rfl, fun _ _ => rfl, fun _ _ => rfl, fun _ => rfl, .inl rfl⟩
  · exact ⟨fun _ => rfl, fun _ _ => rfl, fun _ _ => rfl, fun _ => rfl, .inl rfl⟩
  · obtain ⟨top, t, -, hstage, rfl⟩ := datapath_ok hu
    rw [stackStage_eq_setStack hstage]
    have hf := datapathWrite_frame (controlWord i.op) i.operand s top t.stack
    exact ⟨by simpa using hf.a, by simpa using hf.x, by simpa using hf.y, by simpa using hf.c, by simpa using hf.v⟩

/-- A property of the 60 operations is checked along their list. -/
theorem Op.forall_of_all {p : Op → Prop} (h : ∀ op ∈ Op.all, p op) (op : Op) : p op := h op (Op.mem_all op)

theorem controlWord_c_eq_no : ∀ op,
    op ∉ [Op.adc, .sbc, .asl, .lsr, .rol, .ror, .cmp, .cpx, .cpy, .clc, .sec] → (controlWord op).c = .no :=
  Op.forall_of_all (by decide)

/-- The column `V`: CLV clears, ADC and SBC write under the rule, and no other writes. -/
theorem controlWord_v_cases : ∀ op, (controlWord op).v = .no ∨
    (controlWord op).v = .zero ∧ op = .clv ∨ (controlWord op).v = .underRule ∧ op ∈ [Op.adc, .sbc] :=
  Op.forall_of_all (by decide)

/-- Settles O22, from the columns `C` and `V` of the control word. -/
theorem onlyTheListedInstructionsWriteFlags : Obligations.OnlyTheListedInstructionsWriteFlags := by
  intro i s t h
  have hf := exec_frame h
  refine ⟨fun hc => hf.c (controlWord_c_eq_no i.op hc), ?_⟩
  have unchanged (hv : t.v = s.v) : (i.op ∉ [Op.adc, .sbc, .clv] → t.v = s.v) ∧
      (i.op ∈ [Op.adc, .sbc] → s.cfg.vRule = .never → t.v = s.v) ∧
      (t.v = true → s.v = true ∨ i.op ∈ [Op.adc, .sbc] ∧ s.cfg.vRule = .adcSbcBit7) :=
    ⟨fun _ => hv, fun _ _ => hv, fun ht => .inl (hv ▸ ht)⟩
  obtain hv | ⟨new, hv⟩ := hf.v
  · exact unchanged hv
  obtain hno | ⟨hzero, hclv⟩ | ⟨hrule, hop⟩ := controlWord_v_cases i.op
  · exact unchanged (by rw [hv, hno]; rfl)
  · rw [hzero] at hv
    simp [hclv, hv, FlagUse.next]
  · rw [hrule] at hv
    cases hr : s.cfg.vRule with
    | never => exact hr ▸ unchanged (by rw [hv, hr]; rfl)
    | adcSbcBit7 =>
      exact ⟨fun hn => absurd (List.mem_append_left [Op.clv] hop) hn, fun _ => nofun, fun _ => .inr ⟨hop, rfl⟩⟩

theorem controlWord_wb_ne_a : ∀ op,
    op ∉ [Op.lda, .add, .sub, .adc, .sbc, .and, .ora, .eor, .asl, .lsr, .rol, .ror, .cmp, .pla, .plp, .txa, .tya] →
      (controlWord op).wb ≠ .a :=
  Op.forall_of_all (by decide)

theorem controlWord_wb_ne_x : ∀ op, op ∉ [Op.ldx, .tax, .tsx, .inx, .dex] →
    (controlWord op).wb ≠ .x ∧ (controlWord op).wb ≠ .xShared :=
  Op.forall_of_all (by decide)

theorem controlWord_wb_ne_y : ∀ op, op ∉ [Op.ldy, .tay, .iny, .dey] →
    (controlWord op).wb ≠ .y ∧ (controlWord op).wb ≠ .yShared :=
  Op.forall_of_all (by decide)

/-- The index instructions use the mux's shared inputs, never X or Y alone. -/
theorem controlWord_wb_of_index : ∀ op ∈ [Op.inx, .iny, .dex, .dey],
    (controlWord op).wb ≠ .x ∧ (controlWord op).wb ≠ .y := by decide

/-- Settles O23, from the column `wb` of the control word. -/
theorem onlyTheListedInstructionsWriteRegisters : Obligations.OnlyTheListedInstructionsWriteRegisters := by
  intro i s t h
  have hf := exec_frame h
  refine ⟨fun ha => hf.a (controlWord_wb_ne_a i.op ha), fun hx => ?_, fun hy => ?_, fun hs hi => ?_⟩
  · obtain ⟨hne, hshared⟩ := controlWord_wb_ne_x i.op hx
    exact hf.x hne fun e => absurd e hshared
  · obtain ⟨hne, hshared⟩ := controlWord_wb_ne_y i.op hy
    exact hf.y hne fun e => absurd e hshared
  · obtain ⟨hx, hy⟩ := controlWord_wb_of_index i.op hi
    exact ⟨hf.x hx fun _ => hs, hf.y hy fun _ => hs⟩

/-! ### The stack -/

/-- What each use of the stack controller makes of the stack, the entries of TXS apart. -/
def StackUse.Effect (u : StackUse) (before after : List Word) : Prop :=
  match u with
  | .none => after = before
  | .size => after = before
  | .push => ∃ w, after = before ++ [w]
  | .pop => ∃ w, before = after ++ [w]
  | .countDown => ∃ rest w, before = rest ++ [w] ∧ (after = rest ++ [w - 1] ∨ after = rest)
  | .setSize => True

/-- The stack controller's stage has its effect; LOOP's count is the ALU's value. -/
theorem stackStage_effect {u : StackUse} {top value : Word} {s t : State} (hout : stackOut u s = .ok top)
    (hcount : u = .countDown → value = top - 1) (h : stackStage u value s = .ok t) :
    u.Effect s.stack t.stack := by
  cases u with
  | none | size => cases h; rfl
  | push => rw [State.eq_setStack_of_push h]; exact ⟨value, rfl⟩
  | pop =>
    obtain ⟨-, hp⟩ | ⟨rest, w, hs, hp⟩ := s.popInto_cases fun t _ => t <;> rw [stackStage, hp] at h <;> cases h
    exact ⟨w, hs⟩
  | countDown =>
    obtain hs | ⟨rest, w, hs⟩ := s.stack_cases
    · rw [stackOut, State.top_empty hs] at hout; cases hout
    rw [stackOut, State.top_append hs] at hout
    cases hout
    refine ⟨rest, top, hs, ?_⟩
    by_cases hv : value = 0
    · rw [stackStage, if_pos hv, State.popInto_append _ hs] at h
      cases h; exact .inr rfl
    · rw [stackStage, if_neg hv] at h
      cases h; exact .inl (by rw [State.replaceTop_stack, hs, hcount rfl, List.dropLast_concat])
  | setSize => trivial

theorem writebackStage_stack (wb : Writeback) (wr : PortUse) (v : Operand) (w : Word) (s : State) :
    (writebackStage wb wr v w s).stack = s.stack := by
  obtain ⟨-, hw⟩ | ⟨-, hw⟩ | ⟨-, hw⟩ | ⟨m, hw⟩ := writebackStage_cases wb wr v w s <;> rw [hw] <;> rfl

theorem pcStage_stack (u : PcUse) (v : Operand) (taken : Bool) (top : Word) (s : State) :
    (pcStage u v taken top s).stack = s.stack := by
  obtain ⟨p, hp⟩ := pcStage_eq_setPc u v taken top s
  rw [hp, State.setPc_stack]

theorem datapathWrite_stack (cw : ControlWord) (v : Operand) (s : State) (top : Word) (t : State) :
    (datapathWrite cw v s top t).stack = t.stack := by
  simp [datapathWrite, pcStage_stack, writebackStage_stack]

theorem controlWord_alu_of_countDown : ∀ op,
    (controlWord op).stk = .countDown → (controlWord op).alu = .topMinusOne :=
  Op.forall_of_all (by decide)

/-- R38: an instruction's fault leaves the stack; otherwise its control word's use of the stack has its effect. -/
theorem exec_stack {i : Instr} {s t : State} (h : exec i s = .next t) :
    t.status = .faulted ∧ t.stack = s.stack ∨ (controlWord i.op).stk.Effect s.stack t.stack := by
  obtain ⟨rfl, rfl⟩ | ⟨k, o, rfl⟩ | ⟨-, u, hu, rfl⟩ := exec_datapath_cases h
  · exact .inr rfl
  · exact .inl ⟨rfl, rfl⟩
  · obtain ⟨top, t, hout, hstage, rfl⟩ := datapath_ok hu
    rw [State.advance_stack, datapathWrite_stack]
    refine .inr (stackStage_effect hout (fun hc => ?_) hstage)
    rw [datapathAlu, controlWord_alu_of_countDown i.op hc]; rfl

theorem controlWord_stk_of_unlisted : ∀ op,
    op ∉ [Op.stx, .sty, .pha, .php, .jsr, .pla, .plp, .del, .rts, .loop, .txs] →
      (controlWord op).stk = .none ∨ (controlWord op).stk = .size :=
  Op.forall_of_all (by decide)

theorem controlWord_stk_of_pusher : ∀ op ∈ [Op.stx, .sty, .pha, .php, .jsr], (controlWord op).stk = .push := by
  decide

theorem controlWord_stk_of_popper : ∀ op ∈ [Op.pla, .plp, .del, .rts], (controlWord op).stk = .pop := by decide

/-- Settles O24, from the column `stk` of the control word. -/
theorem onlyTheListedInstructionsChangeTheStack : Obligations.OnlyTheListedInstructionsChangeTheStack := by
  intro i s t h
  have effect {u : StackUse} (ht : t.status ≠ .faulted) (hu : (controlWord i.op).stk = u) :
      u.Effect s.stack t.stack := hu ▸ (exec_stack h).resolve_left fun hf => ht hf.1
  refine ⟨fun hop => ?unlisted, fun hop ht => ?push, fun hop ht => ?pop, fun hop ht => ?loop⟩
  case unlisted =>
    obtain ⟨-, hs⟩ | he := exec_stack h
    · exact hs
    · obtain hu | hu := controlWord_stk_of_unlisted i.op hop <;> rw [hu] at he <;> exact he
  case push => exact effect ht (controlWord_stk_of_pusher i.op hop)
  case pop => exact effect ht (controlWord_stk_of_popper i.op hop)
  case loop => exact effect ht (u := .countDown) (by rw [hop]; rfl)

/-! ### The PC -/

theorem writebackStage_pc (wb : Writeback) (wr : PortUse) (v : Operand) (w : Word) (s : State) :
    (writebackStage wb wr v w s).pc = s.pc := by
  obtain ⟨-, hw⟩ | ⟨-, hw⟩ | ⟨-, hw⟩ | ⟨m, hw⟩ := writebackStage_cases wb wr v w s <;> rw [hw] <;> rfl

theorem datapathWrite_pc_of_seq {cw : ControlWord} (v : Operand) (s : State) (top : Word) (t : State)
    (hp : cw.pc = .seq) : (datapathWrite cw v s top t).pc = t.pc := by
  simp [datapathWrite, hp, pcStage, writebackStage_pc]

theorem datapathWrite_pc_of_branch {cw : ControlWord} {cond : BranchCond} (v : Operand) (s : State) (top : Word)
    (t : State) (hp : cw.pc = .branch cond) : (datapathWrite cw v s top t).pc =
      if cond.holds s (datapathAlu cw v s top).value then branchWrite v else t.pc := by
  simp [datapathWrite, hp, pcStage, PcUse.taken, writebackStage_pc]

/-- An instruction that ends Running is its phase's writes, around some contents of the stack, and the PC advance. -/
theorem exec_running {i : Instr} {s t : State} (h : exec i s = .next t) (ht : t.status = .running) :
    i ≠ .halt ∧ ∃ top l,
      t = (datapathWrite (controlWord i.op) i.operand s top (s.setStack l)).advance i.op := by
  obtain ⟨-, rfl⟩ | ⟨k, o, rfl⟩ | ⟨hi, u, hu, rfl⟩ := exec_datapath_cases h
  · cases ht
  · cases ht
  · obtain ⟨top, t, -, hstage, rfl⟩ := datapath_ok hu
    exact ⟨hi, top, t.stack, by rw [← stackStage_eq_setStack hstage]⟩

/-- Only HALT has HALT's operation. -/
theorem Instr.eq_halt_of_op {i : Instr} (h : i.op = .halt) : i = .halt := by
  rw [← Instr.withOperand_self i, h]; rfl

theorem controlWord_pc_eq_seq : ∀ op, op.operandClass ≠ .branch → op ≠ .rts → op ≠ .halt →
    (controlWord op).pc = .seq :=
  Op.forall_of_all (by decide)

/-- The operations with a branch in the column `pc` are those of class B. -/
theorem controlWord_pc_of_branch {op : Op} (h : op.operandClass = .branch) :
    ∃ cond, (controlWord op).pc = .branch cond := by
  cases op <;> cases h <;> exact ⟨_, rfl⟩

theorem controlWord_pc_of_jump : ∀ op ∈ [Op.jmp, .jsr], (controlWord op).pc = .branch .always := by decide

theorem exec_pc_of_seq {i : Instr} {s t : State} (h : exec i s = .next t) (ht : t.status = .running)
    (hop : i.op ≠ .rts) (hp : (controlWord i.op).pc = .seq) : t.pc = s.pc + 1 := by
  obtain ⟨-, top, l, rfl⟩ := exec_running h ht
  rw [State.advance_of_ne _ hop, State.setPc_pc, datapathWrite_pc_of_seq _ _ _ _ hp, State.setStack_pc]

/-- R83, R210: a branch that ends Running lands on its operand when its condition held, else on the next word. -/
theorem exec_pc_of_branch {i : Instr} {s t : State} {cond : BranchCond} (h : exec i s = .next t)
    (ht : t.status = .running) (hp : (controlWord i.op).pc = .branch cond) :
    ∃ value, t.pc = if cond.holds s value then i.operand.setWidth 32 else s.pc + 1 := by
  obtain ⟨-, top, l, rfl⟩ := exec_running h ht
  have hop : i.op ≠ .rts := fun e => by rw [e] at hp; cases hp
  refine ⟨(datapathAlu (controlWord i.op) i.operand s top).value, ?_⟩
  rw [State.advance_of_ne _ hop, State.setPc_pc, datapathWrite_pc_of_branch _ _ _ _ hp]
  split <;> simp

/-- Settles O26, from the column `pc` of the control word. -/
theorem nextFetchIsTheTargetOrTheNextWord : Obligations.NextFetchIsTheTargetOrTheNextWord := by
  intro i s t h ht
  refine ⟨fun hb hr => ?next, fun hb => ?branch, fun hj => ?jump⟩
  case next =>
    have hi : i.op ≠ .halt := fun e => (exec_running h ht).1 (Instr.eq_halt_of_op e)
    exact exec_pc_of_seq h ht hr (controlWord_pc_eq_seq i.op hb hr hi)
  case branch =>
    obtain ⟨cond, hp⟩ := controlWord_pc_of_branch hb
    obtain ⟨value, hpc⟩ := exec_pc_of_branch h ht hp
    rw [hpc]
    exact ite_eq_or_eq _ _ _
  case jump =>
    have hp : (controlWord i.op).pc = .branch .always := controlWord_pc_of_jump i.op hj
    obtain ⟨value, hpc⟩ := exec_pc_of_branch h ht hp
    simpa [BranchCond.holds] using hpc

end Sys2Proof.Machine
end

section
/-! The memory port read from the control word (30_encoding.md R93, 20_memory.md R65): which Word an instruction's ALU function takes from memory, and which cell its writeback replaces. -/
namespace Sys2Proof.Machine

/-! ### The read port -/

/-- The read an ALU function needs: the index functions take the Word only from the shared cell (R22). -/
def AluFn.memoryUse : AluFn → PortUse
  | .passM | .addFull | .subFull | .addCarry | .subBorrow | .and | .or | .xor
  | .compareA | .compareX | .compareY | .incByte | .decByte => .yes
  | .incX | .incY | .decX | .decY => .shared
  | .none | .passA | .passX | .passY | .passPopped | .shiftLeft | .shiftRight | .rotateLeft | .rotateRight
  | .topMinusOne | .pcPlusTwo | .size => .no

/-- The column `rd` says which ALU functions take a Word from memory. -/
theorem controlWord_alu_memoryUse : ∀ op, (controlWord op).alu.memoryUse = (controlWord op).rd :=
  Op.forall_of_all (by decide)

theorem indexInput_congr {s : State} {reg m m' : Word} (h : s.cfg.indexStorage = .sharedMemory → m = m') :
    indexInput s reg m = indexInput s reg m' := by
  cases hi : s.cfg.indexStorage with
  | registers => simp [indexInput, hi]
  | sharedMemory => rw [h hi]

/-- The ALU's outputs depend on the Word read from memory only when its function needs a read. -/
theorem aluOut_congr {fn : AluFn} {s : State} {m m' top : Word}
    (h : fn.memoryUse.active s.cfg.indexStorage = true → m = m') : aluOut fn s m top = aluOut fn s m' top := by
  have index (hfn : fn.memoryUse = .shared) (reg : Word) : indexInput s reg m = indexInput s reg m' :=
    indexInput_congr fun hi => h (by rw [hfn, hi]; rfl)
  cases fn with
  | passM | addFull | subFull | addCarry | subBorrow | and | or | xor
  | compareA | compareX | compareY | incByte | decByte => rw [h rfl]
  | incX | incY | decX | decY => simp only [aluOut, index rfl]
  | none | passA | passX | passY | passPopped | shiftLeft | shiftRight | rotateLeft | rotateRight
  | topMinusOne | pcPlusTwo | size => rfl

/-! ### The write port -/

/-- The write a setting of the writeback mux makes: the index settings write only the shared cell (R22). -/
def Writeback.memoryUse : Writeback → PortUse
  | .mem => .yes
  | .xShared | .yShared => .shared
  | .none | .a | .x | .y | .stackTop | .pc | .status => .no

/-- The column `wr` says which settings of the writeback mux store. -/
theorem controlWord_wb_memoryUse : ∀ op, (controlWord op).wb.memoryUse = (controlWord op).wr :=
  Op.forall_of_all (by decide)

/-- What a write port leaves of memory: the ALU's value at the port's address when the port is active. -/
def PortUse.store (u : PortUse) (v : Operand) (cfg : Config) (value : Word) (m : Memory) : Memory :=
  if u.active cfg.indexStorage then m.write (u.addr v cfg).toNat value else m

theorem writebackStage_mem (wb : Writeback) (v : Operand) (value : Word) (s : State) :
    (writebackStage wb wb.memoryUse v value s).mem = wb.memoryUse.store v s.cfg value s.mem := by
  cases wb with
  | none | a | x | y | stackTop | pc | status | mem => rfl
  | xShared | yShared =>
    cases h : s.cfg.indexStorage <;>
      simp [writebackStage, State.updateIndex, Writeback.memoryUse, PortUse.store, PortUse.active, PortUse.addr, h]

theorem pcStage_mem (u : PcUse) (v : Operand) (taken : Bool) (top : Word) (s : State) :
    (pcStage u v taken top s).mem = s.mem := by
  obtain ⟨p, hp⟩ := pcStage_eq_setPc u v taken top s
  rw [hp, State.setPc_mem]

/-- A phase's writes leave of memory what its write port stores. -/
theorem datapathWrite_mem (op : Op) (v : Operand) (s : State) (top : Word) (l : List Word) :
    (datapathWrite (controlWord op) v s top (s.setStack l)).mem =
      (controlWord op).wr.store v s.cfg (datapathAlu (controlWord op) v s top).value s.mem := by
  rw [datapathWrite, pcStage_mem, ← controlWord_wb_memoryUse, writebackStage_mem]
  rfl

/-! ### Memory after an instruction -/

/-- An instruction that leaves the stack controller alone cannot fault: it is its phase's writes and the PC advance. -/
theorem exec_of_stk_none {i : Instr} (s : State) (hop : i.op ≠ .halt) (hs : (controlWord i.op).stk = .none) :
    exec i s = .next ((datapathWrite (controlWord i.op) i.operand s 0 s).advance i.op) := by
  have hi : i ≠ .halt := fun e => hop (by rw [e]; rfl)
  rw [exec_eq_datapath i s hi, datapath_of_stackStage (top := 0) (by rw [hs]; rfl), hs]
  rfl

/-- No operation that stores halts or uses the stack controller. -/
theorem controlWord_of_store : ∀ op, (controlWord op).wr ≠ .no → op ≠ .halt ∧ (controlWord op).stk = .none :=
  Op.forall_of_all (by decide)

/-- An instruction leaves of memory what its write port stores, the ALU's value being the one without a popped Word. -/
theorem exec_mem {i : Instr} {s t : State} (h : exec i s = .next t) :
    t.mem = (controlWord i.op).wr.store i.operand s.cfg (datapathAlu (controlWord i.op) i.operand s 0).value s.mem := by
  by_cases hw : (controlWord i.op).wr = .no
  · have unstored (value : Word) : (controlWord i.op).wr.store i.operand s.cfg value s.mem = s.mem := by rw [hw]; rfl
    rw [unstored]
    obtain ⟨-, rfl⟩ | ⟨k, o, rfl⟩ | ⟨-, u, hu, rfl⟩ := exec_datapath_cases h
    · rfl
    · rfl
    · obtain ⟨top, t, -, hstage, rfl⟩ := datapath_ok hu
      rw [State.advance_mem, stackStage_eq_setStack hstage, datapathWrite_mem, unstored]
  · obtain ⟨hop, hs⟩ := controlWord_of_store i.op hw
    rw [exec_of_stk_none s hop hs] at h
    cases h
    rw [State.advance_mem]
    exact datapathWrite_mem i.op i.operand s 0 s.stack

theorem PortUse.read_store_other {u : PortUse} {v : Operand} {cfg : Config} {b : Nat} (value : Word) (m : Memory)
    (hb : b ≠ (u.addr v cfg).toNat) : (u.store v cfg value m).read b = m.read b := by
  unfold PortUse.store
  split
  · exact Memory.read_write_other m value hb
  · rfl

theorem controlWord_wr_of_store : ∀ op ∈ [Op.sta, .inc, .dec], (controlWord op).wr = .yes := by decide

theorem controlWord_wr_of_index : ∀ op ∈ [Op.inx, .iny, .dex, .dey], (controlWord op).wr = .shared := by decide

theorem controlWord_wr_of_unlisted : ∀ op, op ∉ [Op.sta, .inc, .dec, .inx, .iny, .dex, .dey] →
    (controlWord op).wr = .no :=
  Op.forall_of_all (by decide)

/-- Settles O25, from the column `wr` of the control word. -/
theorem onlyTheListedInstructionsWriteMemory : Obligations.OnlyTheListedInstructionsWriteMemory := by
  intro i s t h
  have hm := exec_mem h
  refine ⟨fun hop b hb => ?store, fun hop hi b hb => ?shared, fun hop hi => ?registers, fun hop => ?unlisted⟩
  case store =>
    rw [controlWord_wr_of_store i.op hop] at hm
    rw [hm, PortUse.read_store_other _ _ hb]
  case shared =>
    rw [controlWord_wr_of_index i.op hop] at hm
    rw [hm, PortUse.read_store_other _ _ hb]
  case registers =>
    rw [hm, controlWord_wr_of_index i.op hop]
    simp [PortUse.store, PortUse.active, hi]
  case unlisted =>
    rw [hm, controlWord_wr_of_unlisted i.op hop]
    rfl

/-! ### Reads and writes of one Word -/

theorem State.memRead_memWrite (s : State) (addr b : Addr) (w : Word) :
    (s.memWrite addr w).memRead b = if addr = b then w else s.memRead b := by
  split
  · subst_vars; exact State.memRead_memWrite_same s _ w
  · exact State.memRead_memWrite_other s w (Ne.symm ‹_›)

/-- Settles O15, by induction on the writes from the last one back. -/
theorem readReturnsTheLastWriteOrZero : Obligations.ReadReturnsTheLastWriteOrZero := by
  intro writes addr
  induction writes using List.reverseRecOn with
  | nil => rfl
  | append_singleton earlier last ih =>
    rw [List.foldl_append, List.foldl_cons, List.foldl_nil, State.memRead_memWrite, ih, List.reverse_concat]
    by_cases h : last.1 = addr
    · simp [h]
    · rw [if_neg h, List.find?_cons_of_neg (by simpa using h)]

theorem datapathWrite_status_fault (cw : ControlWord) (v : Operand) (s : State) (top : Word) (t : State) :
    (datapathWrite cw v s top t).status = t.status ∧ (datapathWrite cw v s top t).fault = t.fault := by
  unfold datapathWrite
  set out := datapathAlu cw v s top
  set flagged := (t.setC (cw.c.next s.cfg.vRule out.carry s.c)).setV (cw.v.next s.cfg.vRule out.overflow s.v)
  obtain ⟨p, hp⟩ := pcStage_eq_setPc cw.pc v (cw.pc.taken s out.value) top
    (writebackStage cw.wb cw.wr v out.value flagged)
  rw [hp]
  obtain ⟨-, hw⟩ | ⟨-, hw⟩ | ⟨-, hw⟩ | ⟨m, hw⟩ := writebackStage_cases cw.wb cw.wr v out.value flagged <;> rw [hw] <;>
    exact ⟨rfl, rfl⟩

/-- No operation of class M, and no index operation, halts or uses the stack controller. -/
theorem controlWord_of_memory : ∀ op, op.operandClass = .memory ∨ op ∈ [Op.inx, .iny, .dex, .dey] →
    op ≠ .halt ∧ (controlWord op).stk = .none :=
  Op.forall_of_all (by decide)

/-- Settles O16: the laws of one write, and the column `stk`, since only the stack controller raises a fault. -/
theorem writeReplacesOneWord : Obligations.WriteReplacesOneWord := by
  refine ⟨fun s addr w => ⟨rfl, Memory.read_write_same _ _ _, fun b hb => Memory.read_write_other _ _ hb⟩,
    fun i s t hop h => ?_⟩
  obtain ⟨hne, hs⟩ := controlWord_of_memory i.op hop
  rw [exec_of_stk_none s hne hs] at h
  cases h
  simpa using datapathWrite_status_fault (controlWord i.op) i.operand s 0 s

end Sys2Proof.Machine
end

section
/-! The accesses of a step (20_memory.md R65): a fetch, then the instruction's read and write. -/
namespace Sys2Proof.Machine

/-! ### One equation per way a step goes -/

section
variable {s : State}

theorem stepAccesses_of_terminal (h : s.terminal) : stepAccesses s = [] := by
  cases hs : s.status with
  | running => exact absurd hs h
  | halted | faulted => simp [stepAccesses, hs]

theorem stepAccesses_of_pcOut (hr : s.status = .running) (hp : pcInRange s.cfg s.pc = false) :
    stepAccesses s = [] := by simp [stepAccesses, hr, hp]

theorem stepAccesses_of_unknown {u : Unknown} (hr : s.status = .running) (hp : pcInRange s.cfg s.pc = true)
    (hd : decode s.cfg s.fetchWord = .error u) : stepAccesses s = [.fetch (fetchAddr s.pc)] := by
  simp [stepAccesses, hr, hp, hd]

theorem stepAccesses_of_decode {i : Instr} (hr : s.status = .running) (hp : pcInRange s.cfg s.pc = true)
    (hd : decode s.cfg s.fetchWord = .ok i) : stepAccesses s = .fetch (fetchAddr s.pc) :: dataAccesses i s := by
  simp [stepAccesses, hr, hp, hd]

variable (hl : s.cfg.legal = true) (hr : s.status = .running)
include hl hr

theorem step_of_pcOut (hp : pcInRange s.cfg s.pc = false) :
    step s = .next (s.takeFault .outOfRangeProgramCounter none) := by
  simp [step_running hl hr, stepRunning, hp]

theorem step_of_unknown {u : Unknown} (hp : pcInRange s.cfg s.pc = true)
    (hd : decode s.cfg s.fetchWord = .error u) : step s = .next (s.unknownWord (opcField s.fetchWord)) := by
  simp [step_running hl hr, stepRunning, hp, hd]

theorem step_of_decode {i : Instr} (hp : pcInRange s.cfg s.pc = true)
    (hd : decode s.cfg s.fetchWord = .ok i) : step s = exec i s := by
  simp [step_running hl hr, stepRunning, hp, hd]
end

/-! ### The accesses of an instruction -/

/-- The data read of an instruction: at most one. -/
def dataReads (i : Instr) (s : State) : List Access :=
  if (controlWord i.op).rd.active s.cfg.indexStorage then
    [.read ((controlWord i.op).rd.addr i.operand s.cfg)]
  else []

/-- The data write of an instruction: at most one, of the ALU's value. -/
def dataWrites (i : Instr) (s : State) : List Access :=
  if (controlWord i.op).wr.active s.cfg.indexStorage then
    [.write ((controlWord i.op).wr.addr i.operand s.cfg) (datapathAlu (controlWord i.op) i.operand s 0).value]
  else []

theorem dataAccesses_eq (i : Instr) (s : State) : dataAccesses i s = dataReads i s ++ dataWrites i s := rfl

/-- The reads and then the writes of an instruction have the shape R65 gives them. -/
theorem dataAccesses_shape (i : Instr) (s : State) :
    (dataReads i s).length ≤ 1 ∧ (dataWrites i s).length ≤ 1 ∧
      (∀ p ∈ dataReads i s, ∃ addr, p = .read addr) ∧ ∀ p ∈ dataWrites i s, ∃ addr w, p = .write addr w := by
  refine ⟨?_, ?_, ?_, ?_⟩
  · unfold dataReads; split <;> simp
  · unfold dataWrites; split <;> simp
  · unfold dataReads; split <;> simp
  · unfold dataWrites; split <;> simp

/-- The data accesses leave of memory what the write port stores. -/
theorem foldl_dataAccesses (i : Instr) (s : State) (m : Memory) :
    (dataAccesses i s).foldl Access.apply m =
      (controlWord i.op).wr.store i.operand s.cfg (datapathAlu (controlWord i.op) i.operand s 0).value m := by
  have reads : (dataReads i s).foldl Access.apply m = m := by unfold dataReads; split <;> rfl
  rw [dataAccesses_eq, List.foldl_append, reads]
  unfold dataWrites PortUse.store
  split <;> rfl

theorem State.unknownWord_mem (s : State) (opc : Opcode) : (s.unknownWord opc).mem = s.mem := by
  cases hm : s.cfg.unknownOpcodeMode with
  | lenient => rw [State.unknownWord_lenient opc hm]
  | strict => rw [State.unknownWord_strict opc hm, State.takeFault_mem]

/-- Settles O17: an unknown word is fetched and nothing more; an instruction has its control word's accesses. -/
theorem stepUsesThePortInOrder : Obligations.StepUsesThePortInOrder := by
  intro s t _ hr hpc hlim h
  have hp : pcInRange s.cfg s.pc = true := pcInRange_iff.mpr ⟨hpc, hlim⟩
  obtain ⟨-, ⟨hs, -⟩ | ⟨-, hout, -⟩ | ⟨-, -, u, hd, rfl⟩ | ⟨-, -, i, hd, he⟩⟩ := step_cases h
  · exact absurd hr hs
  · exact absurd hp (by simp [hout])
  · rw [stepAccesses_of_unknown hr hp hd]
    exact ⟨⟨[], [], rfl, by simp⟩, s.unknownWord_mem _⟩
  · rw [stepAccesses_of_decode hr hp hd]
    exact ⟨⟨dataReads i s, dataWrites i s, rfl, dataAccesses_shape i s⟩,
      (exec_mem he).trans (foldl_dataAccesses i s s.mem).symm⟩

end Sys2Proof.Machine
end

section
/-! Noninterference (20_memory.md R63, R65): a step of a machine with another memory, equal at the addresses its port reads, goes the same way. -/
namespace Sys2Proof.Machine

/-- The state with another memory in place of its own. -/
def State.withMem (s : State) (m : Memory) : State := { s with mem := m }

/-- States equal but for memory are one state with two memories. -/
theorem State.sameCore_iff {s t : State} : s.sameCore t ↔ ∃ m, t = s.withMem m :=
  ⟨fun h => ⟨t.mem, h.symm⟩, fun ⟨_, h⟩ => by rw [h]; rfl⟩

/-! ### The operations of an execute phase under another memory -/

section
variable (s : State) (m : Memory)

theorem State.push_withMem (w : Word) : (s.withMem m).push w = (s.push w).map (·.withMem m) := by
  unfold State.push
  split <;> simp_all [State.withMem, State.stackSize, State.setStack, Except.map]

theorem State.popInto_withMem : (s.withMem m).popInto (fun t _ => t) = (s.popInto fun t _ => t).map (·.withMem m) := by
  obtain ⟨hs, h⟩ | ⟨rest, w, hs, h⟩ := s.popInto_cases fun t _ => t <;> rw [h]
  · exact State.popInto_empty _ hs
  · exact State.popInto_append _ hs

theorem State.pushZeros_withMem (n : Nat) :
    State.pushZeros n (s.withMem m) = (State.pushZeros n s).map (·.withMem m) := by
  induction n generalizing s with
  | zero => rfl
  | succ n ih =>
    rw [State.pushZeros, State.pushZeros, State.push_withMem]
    cases h : s.push 0 with
    | error k => rfl
    | ok t => exact ih t

theorem State.setSize_withMem (n : Word) : (s.withMem m).setSize n = (s.setSize n).map (·.withMem m) := by
  have hs : (s.withMem m).stackSize = s.stackSize := rfl
  have hc : (s.withMem m).cfg = s.cfg := rfl
  unfold State.setSize
  rw [hs, hc, State.pushZeros_withMem]
  split
  · rfl
  · split
    · rfl
    · cases s.cfg.txsGrowPolicy <;> rfl

/-- The stack controller does not see memory. -/
theorem stackStage_withMem (u : StackUse) (value : Word) :
    stackStage u value (s.withMem m) = (stackStage u value s).map (·.withMem m) := by
  cases u with
  | none | size => rfl
  | push => exact s.push_withMem m value
  | pop => exact s.popInto_withMem m
  | countDown =>
    by_cases hv : value = 0
    · simpa [stackStage, hv] using s.popInto_withMem m
    · simp only [stackStage, if_neg hv]; rfl
  | setSize => exact s.setSize_withMem m s.x

theorem stackOut_withMem (u : StackUse) : stackOut u (s.withMem m) = stackOut u s := by cases u <;> rfl

/-- The writeback mux leaves memory, or stores into it: either way the registers are those without it. -/
theorem writebackStage_withMem (wb : Writeback) (wr : PortUse) (v : Operand) (value : Word) :
    ∃ m', writebackStage wb wr v value (s.withMem m) = (writebackStage wb wr v value s).withMem m' := by
  cases wb with
  | none | a | x | y | stackTop | pc | status | mem => exact ⟨_, rfl⟩
  | xShared | yShared =>
    have hc : (s.withMem m).cfg.indexStorage = s.cfg.indexStorage := rfl
    cases h : s.cfg.indexStorage <;> simp only [writebackStage, State.updateIndex, hc, h] <;> exact ⟨_, rfl⟩

theorem pcStage_withMem (u : PcUse) (v : Operand) (taken : Bool) (top : Word) :
    pcStage u v taken top (s.withMem m) = (pcStage u v taken top s).withMem m := by
  cases u with
  | seq | none | popped => rfl
  | branch cond => cases taken <;> rfl

theorem State.advance_withMem (op : Op) : (s.withMem m).advance op = (s.advance op).withMem m := by
  have hc : (s.withMem m).cfg = s.cfg := rfl
  unfold State.advance
  rw [hc]
  split <;> rfl

theorem State.unknownWord_withMem (opc : Opcode) :
    (s.withMem m).unknownWord opc = (s.unknownWord opc).withMem m := by
  have hc : (s.withMem m).cfg.unknownOpcodeMode = s.cfg.unknownOpcodeMode := rfl
  cases h : s.cfg.unknownOpcodeMode <;> simp only [State.unknownWord, hc, h] <;> rfl
end

/-! ### An instruction under another memory -/

/-- The memory `m` has the Word that an instruction's data read takes from `s`, if it reads. -/
def State.AgreesAt (s : State) (m : Memory) (i : Instr) : Prop :=
  (controlWord i.op).rd.active s.cfg.indexStorage = true →
    s.memRead ((controlWord i.op).rd.addr i.operand s.cfg) =
      (s.withMem m).memRead ((controlWord i.op).rd.addr i.operand s.cfg)

section
variable {s : State} {m : Memory} {i : Instr} (h : s.AgreesAt m i)
include h

/-- The ALU sees memory only through the Word read. -/
theorem datapathAlu_withMem (top : Word) :
    datapathAlu (controlWord i.op) i.operand (s.withMem m) top = datapathAlu (controlWord i.op) i.operand s top :=
  (aluOut_congr fun hu => h (controlWord_alu_memoryUse i.op ▸ hu)).symm

theorem datapathWrite_withMem (top : Word) (t : State) :
    ∃ m', datapathWrite (controlWord i.op) i.operand (s.withMem m) top (t.withMem m) =
      (datapathWrite (controlWord i.op) i.operand s top t).withMem m' := by
  unfold datapathWrite
  rw [datapathAlu_withMem h]
  set out := datapathAlu (controlWord i.op) i.operand s top
  set flagged := (t.setC ((controlWord i.op).c.next s.cfg.vRule out.carry s.c)).setV
    ((controlWord i.op).v.next s.cfg.vRule out.overflow s.v)
  obtain ⟨m', hm⟩ := writebackStage_withMem flagged m (controlWord i.op).wb (controlWord i.op).wr i.operand out.value
  have hpc := pcStage_withMem (writebackStage (controlWord i.op).wb (controlWord i.op).wr i.operand out.value flagged)
    m' (controlWord i.op).pc i.operand ((controlWord i.op).pc.taken s out.value) top
  rw [← hm] at hpc
  exact ⟨m', hpc⟩

theorem datapath_withMem :
    ∃ m', datapath (controlWord i.op) i.operand (s.withMem m) =
      (datapath (controlWord i.op) i.operand s).map (·.withMem m') := by
  cases hout : stackOut (controlWord i.op).stk s with
  | error k =>
    rw [datapath_of_stackOut_error hout, datapath_of_stackOut_error ((stackOut_withMem s m _).trans hout)]
    exact ⟨m, rfl⟩
  | ok top =>
    rw [datapath_of_stackStage hout, datapath_of_stackStage ((stackOut_withMem s m _).trans hout),
      datapathAlu_withMem h, stackStage_withMem]
    cases stackStage (controlWord i.op).stk (datapathAlu (controlWord i.op) i.operand s top).value s with
    | error k => exact ⟨m, rfl⟩
    | ok t =>
      obtain ⟨m', hm⟩ := datapathWrite_withMem h top t
      exact ⟨m', congrArg Except.ok hm⟩

theorem exec_withMem {t : State} (he : exec i s = .next t) : ∃ m', exec i (s.withMem m) = .next (t.withMem m') := by
  by_cases hi : i = .halt
  · subst hi
    cases he
    exact ⟨m, rfl⟩
  · rw [exec_eq_datapath i _ hi] at he ⊢
    obtain ⟨m', hm⟩ := datapath_withMem h
    rw [hm]
    obtain ⟨k, hk, rfl⟩ | ⟨u, hu, rfl⟩ := endInstr_cases he
    · rw [hk]; exact ⟨m, rfl⟩
    · rw [hu]; exact ⟨m', congrArg _ (u.advance_withMem m' i.op)⟩

theorem dataAccesses_withMem : dataAccesses i (s.withMem m) = dataAccesses i s := by
  have hw : dataWrites i (s.withMem m) = dataWrites i s := by
    unfold dataWrites
    rw [datapathAlu_withMem h]
    rfl
  rw [dataAccesses_eq, dataAccesses_eq, hw]
  rfl
end

theorem mem_dataAccesses_of_read {i : Instr} {s : State}
    (h : (controlWord i.op).rd.active s.cfg.indexStorage = true) :
    .read ((controlWord i.op).rd.addr i.operand s.cfg) ∈ dataAccesses i s := by
  simp [dataAccesses_eq, dataReads, h]

/-- Settles O18: along the way a step goes, the other memory gives the same fetch, the same decoding and the same read. -/
theorem stepDependsOnlyOnTheWordsItReads : Obligations.StepDependsOnlyOnTheWordsItReads := by
  intro s s' t hl hs hread h
  obtain ⟨m, rfl⟩ := State.sameCore_iff.mp hs
  have core (t : State) (m' : Memory) : t.sameCore (t.withMem m') := State.sameCore_iff.mpr ⟨m', rfl⟩
  have fetch (ha : .fetch (fetchAddr s.pc) ∈ stepAccesses s) : (s.withMem m).fetchWord = s.fetchWord :=
    (hread _ ha _ rfl).symm
  obtain ⟨-, ⟨ht, rfl⟩ | ⟨hr, hp, rfl⟩ | ⟨hr, hp, u, hd, rfl⟩ | ⟨hr, hp, i, hd, he⟩⟩ := step_cases h
  · have ht' : (t.withMem m).terminal := ht
    rw [stepAccesses_of_terminal ht, stepAccesses_of_terminal ht']
    exact ⟨rfl, _, step_terminal hl ht', core t m⟩
  · rw [stepAccesses_of_pcOut hr hp, stepAccesses_of_pcOut (s := s.withMem m) hr hp]
    exact ⟨rfl, _, step_of_pcOut hl hr hp, core _ m⟩
  · have hacc := stepAccesses_of_unknown hr hp hd
    have hf := fetch (by simp [hacc])
    have hd' : decode (s.withMem m).cfg (s.withMem m).fetchWord = .error u := hf ▸ hd
    rw [hacc, stepAccesses_of_unknown (s := s.withMem m) hr hp hd']
    refine ⟨rfl, _, step_of_unknown (s := s.withMem m) hl hr hp hd', ?_⟩
    rw [hf, State.unknownWord_withMem]
    exact core _ m
  · have hacc := stepAccesses_of_decode hr hp hd
    have hf := fetch (by simp [hacc])
    have hd' : decode (s.withMem m).cfg (s.withMem m).fetchWord = .ok i := hf ▸ hd
    have hi : s.AgreesAt m i := fun hrd =>
      hread _ (hacc ▸ List.mem_cons_of_mem _ (mem_dataAccesses_of_read hrd)) _ rfl
    obtain ⟨m', he'⟩ := exec_withMem hi he
    rw [hacc, stepAccesses_of_decode (s := s.withMem m) hr hp hd', dataAccesses_withMem hi]
    exact ⟨rfl, _, (step_of_decode (s := s.withMem m) hl hr hp hd').trans he', core t m'⟩

end Sys2Proof.Machine
end

section
/-! The decoder against the encoder (30_encoding.md R84, R91): what a Word must hold to decode as an instruction, the round trip from each side, and the rejected words. -/
namespace Sys2Proof

/-- R84: a Word decodes as an instruction exactly when its high byte is accepted, its opcode field numbers the instruction's operation, and the operation with the operand field is the instruction. -/
theorem decode_eq_ok_iff {cfg : Config} {w : Word} {i : Instr} :
    decode cfg w = .ok i ↔ ¬ (hiField w ≠ 0 ∧ cfg.highBytePolicy = .unknown) ∧
      cfg.opcodeMap.operation (opcField w) = some i.op ∧ i = i.op.withOperand (operandField w) := by
  refine ⟨decode_ok, fun ⟨hhigh, ho, hi⟩ => ?_⟩
  rw [decode, if_neg hhigh, ho]
  exact congrArg Except.ok hi.symm

/-- Settles O2: the encoded word holds a zero high byte, the number that the map reads back as the operation, and the operand. -/
theorem decodeOfEncodeIsTheInstruction : Obligations.DecodeOfEncodeIsTheInstruction := by
  intro cfg hl i
  obtain ⟨hfields, hself⟩ := Laws.EncodedFields.of_instr i
  obtain ⟨hhigh, hopc, hoperand⟩ := hfields cfg
  refine decode_eq_ok_iff.mpr ⟨fun h => h.1 hhigh, ?operation, ?operand⟩
  case operation => rw [hopc, OpcodeMap.operation_number hl]
  case operand => rw [hoperand, hself]

/-- R81: the operand of a decoded class M or class B instruction is the word's operand field. -/
theorem operand_of_decode {cfg : Config} {w : Word} {i : Instr} (hd : decode cfg w = .ok i)
    (hc : i.op.operandClass ≠ .implied) : i.operand = operandField w := by
  obtain ⟨-, -, hi⟩ := decode_eq_ok_iff.mp hd
  calc i.operand = (i.op.withOperand (operandField w)).operand := congrArg Instr.operand hi
    _ = operandField w := by rw [Op.withOperand_operand, if_neg hc]

/-- Settles O3, field by field: the opcode is the operation's number, and only a class I operation drops the operand. -/
theorem decodedWordIsItsEncodingButForIgnoredBits : Obligations.DecodedWordIsItsEncodingButForIgnoredBits := by
  intro cfg w i hl hd
  obtain ⟨haccepted, ho, hi⟩ := decode_eq_ok_iff.mp hd
  obtain ⟨hhigh, hopc, hoperand⟩ := (Laws.EncodedFields.of_instr i).1 cfg
  have hnumber : cfg.opcodeMap.number i.op = opcField w := number_of_decode hl hd
  refine ⟨hhigh, hopc.trans hnumber, fun hc => hoperand.trans (operand_of_decode hd hc), fun hc hp => ?word,
    fun hc w' hhigh' hopc' => ?implied⟩
  case word =>
    have hzero : hiField w = 0 := by_contra fun h => haccepted ⟨h, hp⟩
    rw [encode, hnumber, operand_of_decode hd hc, packWord_fields hzero]
  case implied =>
    exact decode_eq_ok_iff.mpr ⟨hhigh' ▸ haccepted, hopc' ▸ ho, hi.trans (Op.withOperand_implied hc _ _)⟩

/-- R84: the high byte is accepted when it is zero or the policy ignores it. -/
theorem highByte_accepted_iff {cfg : Config} {w : Word} :
    ¬ (hiField w ≠ 0 ∧ cfg.highBytePolicy = .unknown) ↔ hiField w = 0 ∨ cfg.highBytePolicy = .ignore := by
  rw [not_and_or, not_not]
  cases cfg.highBytePolicy <;> simp

/-- Settles O4: the three ways of `decode_cases` exclude each other, and each makes one clause's condition true. -/
theorem decodeRejectsExactlyTheUnknownWords : Obligations.DecodeRejectsExactlyTheUnknownWords := by
  intro cfg w
  rw [← highByte_accepted_iff]
  obtain ⟨hhigh, hp, hd⟩ | ⟨haccepted, ho, hd⟩ | ⟨haccepted, op, ho, hd⟩ := decode_cases cfg w <;> rw [hd]
  · have hrejected : hiField w ≠ 0 ∧ cfg.highBytePolicy = .unknown := ⟨hhigh, hp⟩
    exact ⟨iff_of_true rfl hrejected, iff_of_false nofun fun h => h.1 hrejected,
      iff_of_false nofun fun h => h.1 hrejected⟩
  · have hunused : ∀ e ∈ cfg.opcodeMap, e.2 ≠ opcField w := OpcodeMap.operation_eq_none.mp ho
    exact ⟨iff_of_false nofun haccepted, iff_of_true rfl ⟨haccepted, hunused⟩,
      iff_of_false nofun fun ⟨_, e, he, heq⟩ => hunused e he heq⟩
  · have hused : (op, opcField w) ∈ cfg.opcodeMap := OpcodeMap.operation_some ho
    exact ⟨iff_of_false nofun haccepted, iff_of_false nofun fun h => h.2 _ hused rfl,
      iff_of_true ⟨_, rfl⟩ ⟨haccepted, _, hused, rfl⟩⟩

end Sys2Proof
end

section
/-! The step cycle (30_encoding.md R82): the next state of every machine with legal parameters, and its two readings at a PC in and out of range. The table of R93 is `exec_eq_datapath`. -/
namespace Sys2Proof.Machine

/-- Settles O10: each branch of the step cycle answers, the instruction's by `exec_next`. -/
theorem everyStepAnswersANextState : Obligations.EveryStepAnswersANextState := by
  refine fun s => ⟨fun hl => ?legal, fun hl => by simp [step, hl]⟩
  by_cases hr : s.status = .running
  · cases hp : pcInRange s.cfg s.pc with
    | false => exact ⟨_, step_of_pcOut hl hr hp⟩
    | true =>
      cases hd : decode s.cfg s.fetchWord with
      | error u => exact ⟨_, step_of_unknown hl hr hp hd⟩
      | ok i =>
        rw [step_of_decode hl hr hp hd]
        exact exec_next i s
  · exact ⟨s, step_terminal hl hr⟩

/-- Settles O29: `exec_eq_datapath`, the instructions one by one. -/
theorem datapathAgreesWithEveryMeaning : Obligations.DatapathAgreesWithEveryMeaning := exec_eq_datapath

/-- Settles O5: the PC check passes, and the fetched word is the Word at the PC. -/
theorem stepRunsTheDecodedInstruction : Obligations.StepRunsTheDecodedInstruction := by
  intro s i hl hr hge hlt hd
  have hp : pcInRange s.cfg s.pc = true := pcInRange_iff.mpr ⟨hge, hlt⟩
  exact step_of_decode hl hr hp ((decode_fetchWord hp).trans hd)

/-- R82: the PC check fails exactly on a negative PC and on one not below `PC_LIMIT`. -/
theorem pcInRange_eq_false_iff {cfg : Config} {pc : Word} :
    pcInRange cfg pc = false ↔ pc.toInt < 0 ∨ cfg.pcLimit ≤ pc.toInt := by
  rw [← Bool.not_eq_true, pcInRange_iff]
  omega

/-- Settles O6: the PC check fails, and the fault is taken before the fetch. -/
theorem stepFaultsWhenThePcIsOutOfRange : Obligations.StepFaultsWhenThePcIsOutOfRange :=
  fun _ hl hr hpc => step_of_pcOut hl hr (pcInRange_eq_false_iff.mpr hpc)

end Sys2Proof.Machine
end

section
/-! Loads, stores and pushes of the index registers (40_load_store.md): each is its execute phase with the increment of R83 after it. -/
namespace Sys2Proof.Machine

/-- R83: an execute phase that succeeds is followed by the increment, for every operation but RTS. -/
theorem endInstr_ok_of_ne {op : Op} (s t : State) (hop : op ≠ .rts) :
    endInstr op s (.ok t) = .next (t.setPc (t.pc + 1)) := by
  rw [endInstr_ok, State.advance_of_ne t hop]

/-- R40: a push with room below the capacity. -/
theorem endInstr_push_of_room {op : Op} {s : State} (w : Word) (hop : op ≠ .rts)
    (hroom : s.cfg.stackCapacity ≠ some s.stack.length) :
    endInstr op s (s.push w) = .next { s with stack := s.stack ++ [w], pc := s.pc + 1 } := by
  rw [State.push_ok w hroom, endInstr_ok_of_ne _ _ hop]
  rfl

/-- R304, R305: a push on a full finite stack. -/
theorem endInstr_push_of_full {op : Op} {s : State} (w : Word)
    (hfull : s.cfg.stackCapacity = some s.stack.length) :
    endInstr op s (s.push w) = .next (faultedBy s .stackOverflow op) := by
  rw [State.push_full w hfull, endInstr_error]
  rfl

/-- A PC that is an operand's value fetches from that operand's address. -/
theorem fetchAddr_eq_ea {pc : Word} {v : Operand} (h : v.toNat = pc.toNat) : fetchAddr pc = ea v := by
  apply BitVec.eq_of_toNat_eq
  have hv : v.toNat < 2 ^ 16 := v.isLt
  rw [ea_toNat, fetchAddr, BitVec.toNat_setWidth, ← h]
  omega

/-- R101: STA is the write of A at the operand address, then the increment. -/
theorem exec_sta (v : Operand) (s : State) :
    exec (.sta v) s = .next ((s.memWrite (ea v) s.a).setPc (s.pc + 1)) :=
  endInstr_ok_of_ne s _ (by decide)

/-- R74: the Word an STA stores at PC + 1 is the one fetched next. -/
theorem fetchWord_of_store_at_next {s : State} {v : Operand} (w : Word) (h : v.toNat = (s.pc + 1).toNat) :
    ((s.memWrite (ea v) w).setPc (s.pc + 1)).fetchWord = w :=
  calc ((s.memWrite (ea v) w).setPc (s.pc + 1)).fetchWord
      = (s.memWrite (ea v) w).memRead (fetchAddr (s.pc + 1)) := rfl
    _ = (s.memWrite (ea v) w).memRead (ea v) := by rw [fetchAddr_eq_ea h]
    _ = w := State.memRead_memWrite_same s _ w

/-- Settles O30: each load is one register write of the Word at `ea`, then the increment. -/
theorem loadsReadTheOperandWord : Obligations.LoadsReadTheOperandWord := by
  refine ⟨⟨⟨rfl, rfl, rfl⟩, ⟨rfl, rfl, rfl⟩, ⟨rfl, rfl, rfl⟩⟩, fun v s => ?_⟩
  rw [← s.memRead_ea v]
  refine ⟨?lda, ?ldx, ?ldy⟩
  all_goals exact endInstr_ok_of_ne s _ (by decide)

/-- Settles O31: the laws of one memory write, at the operand address. -/
theorem staStoresTheAccumulator : Obligations.StaStoresTheAccumulator := by
  refine ⟨⟨rfl, rfl, rfl⟩, fun v s => ⟨_, exec_sta v s, ?state, ?written, fun b hb => ?other,
    fetchWord_of_store_at_next s.a⟩⟩
  case state => rw [State.memWrite, ea_toNat]; rfl
  case written => simp
  case other => simp [Memory.read_write_other _ _ hb]

/-- Settles O32: the two ways a push ends, for X and for Y. -/
theorem stxAndStyPushTheIndexRegister : Obligations.StxAndStyPushTheIndexRegister :=
  fun s => ⟨fun hroom => ⟨endInstr_push_of_room s.x (by decide) hroom, endInstr_push_of_room s.y (by decide) hroom⟩,
    fun hfull => ⟨endInstr_push_of_full s.x hfull, endInstr_push_of_full s.y hfull⟩⟩

end Sys2Proof.Machine
end

section
/-! Arithmetic, logic, shifts and rotates (41_arithmetic.md): what each leaves in A and the flags, and what ADC and SBC come to on bytes. -/
namespace Sys2Proof.Machine

/-! ### The exact next states (R121 to R132) -/

/-- Settles O33: each is one write of A from the Word at `ea`, then the increment. -/
theorem fullWidthAluWritesOnlyA : Obligations.FullWidthAluWritesOnlyA := by
  intro v s
  rw [← s.memRead_ea v]
  refine ⟨?add, ?sub, ?and, ?ora, ?eor⟩
  all_goals exact endInstr_ok_of_ne s _ (by decide)

/-- R29: `V_RULE` decides which of two values V gets. -/
theorem overflowUnder_eq_ite (rule : VRule) (new old : Bool) :
    overflowUnder rule new old = if rule = .adcSbcBit7 then new else old := by
  cases rule <;> rfl

/-- R123: ADC in terms of the ALU's 32-bit sum. -/
theorem exec_adc {v : Operand} {s : State} {m r : Word} (hm : m = s.mem.read v.toNat) (hr : r = adcSum s.a m s.c) :
    exec (.adc v) s = .next { s with
      a := lowByte r
      c := adcCarry r
      v := overflowUnder s.cfg.vRule (adcOverflow s.a m r) s.v
      pc := s.pc + 1 } := by
  rw [hr, hm, ← s.memRead_ea v]
  exact endInstr_ok_of_ne s _ (by decide)

/-- R124: SBC in terms of the ALU's 32-bit difference. -/
theorem exec_sbc {v : Operand} {s : State} {m r : Word} (hm : m = s.mem.read v.toNat)
    (hr : r = sbcDifference s.a m s.c) :
    exec (.sbc v) s = .next { s with
      a := lowByte r
      c := sbcCarry r
      v := overflowUnder s.cfg.vRule (sbcOverflow s.a m r) s.v
      pc := s.pc + 1 } := by
  rw [hr, hm, ← s.memRead_ea v]
  exact endInstr_ok_of_ne s _ (by decide)

/-- Settles O34: the sum, its carry and its overflow are the ALU's. -/
theorem adcResultAndFlags : Obligations.AdcResultAndFlags := by
  intro v s m r hm hr
  rw [exec_adc hm hr, overflowUnder_eq_ite]
  rfl

/-- Settles O35: the difference, its carry and its overflow are the ALU's. -/
theorem sbcResultAndFlags : Obligations.SbcResultAndFlags := by
  intro v s m r hm hr
  rw [exec_sbc hm hr, overflowUnder_eq_ite]
  rfl

/-- The next state of a shift or rotate whose ALU result is `r`: A and C from it, then the increment. -/
def State.shifted (s : State) (r : ShiftResult) : State := { s with a := r.value, c := r.carry, pc := s.pc + 1 }

/-- R128 to R132: each shift and rotate ends with the ALU's result of the configured width. -/
theorem exec_shift {s : State} {w : ShiftWidth} (h : s.cfg.shiftWidth = w) :
    exec .asl s = .next (s.shifted (aslOf w s.a)) ∧ exec .lsr s = .next (s.shifted (lsrOf w s.a)) ∧
    exec .rol s = .next (s.shifted (rolOf w s.a s.c)) ∧ exec .ror s = .next (s.shifted (rorOf w s.a s.c)) := by
  subst h
  refine ⟨?asl, ?lsr, ?rol, ?ror⟩
  all_goals exact endInstr_ok_of_ne s _ (by decide)

/-- Settles O37: under each `SHIFT_WIDTH` the result written back is the ALU's of that width. -/
theorem shiftsAndRotatesMoveOnePlace : Obligations.ShiftsAndRotatesMoveOnePlace := by
  refine fun s => ⟨fun h => ?bits32, fun h b hb => ?bits8⟩
  case bits32 => exact exec_shift h
  case bits8 =>
    subst hb
    exact exec_shift h

/-! ### Words as bytes -/

@[simp] theorem boolWord_toNat (b : Bool) : (boolWord b).toNat = b.toNat := by cases b <;> rfl

/-- R124: the borrow `1 - bool(C)` is the Word of the inverted carry. -/
theorem one_sub_boolWord (b : Bool) : 1 - boolWord b = boolWord !b := by cases b <;> rfl

/-- R124: the borrow as a number. -/
theorem toNat_not (b : Bool) : (!b).toNat = 1 - b.toNat := by cases b <;> rfl

theorem toNat_decide (p : Prop) [Decidable p] : (decide p).toNat = if p then 1 else 0 :=
  apply_ite Bool.toNat p true false

theorem lowByte_toNat (w : Word) : (lowByte w).toNat = w.toNat % 256 := by
  rw [lowByte, BitVec.toNat_and]
  exact Nat.and_two_pow_sub_one_eq_mod w.toNat 8

/-- The byte a Word is cut to does not see the Word's other bits. -/
@[simp] theorem setWidth_lowByte (w : Word) : (lowByte w).setWidth 8 = w.setWidth 8 := by
  apply BitVec.eq_of_toNat_eq
  simp [lowByte_toNat]

/-- Bit 7 says in which half of the byte range the low byte lies. -/
theorem getLsbD_seven (w : Word) : w.getLsbD 7 = decide (128 ≤ w.toNat % 256) := by
  rw [BitVec.getLsbD, Nat.testBit_eq_decide_div_mod_eq, decide_eq_decide]
  omega

/-- Bit 7 is the sign of the low byte: where it is set, the signed byte is 256 below the unsigned one. -/
theorem toInt_setWidth_eight (w : Word) :
    (w.setWidth 8).toInt = w.toNat % 256 - if 128 ≤ w.toNat % 256 then 256 else 0 := by
  rw [BitVec.toInt_eq_toNat_cond, BitVec.toNat_setWidth]
  split <;> split <;> omega

/-! ### ADC and SBC on bytes (R123, R124) -/

theorem adcSum_toNat (a m : Word) (c : Bool) :
    (adcSum a m c).toNat = (a.toNat + m.toNat + c.toNat) % 2 ^ 32 := by
  simp [adcSum, BitVec.toNat_add]

/-- The difference undoes the sum with the borrow as its carry. -/
theorem adcSum_sbcDifference (a m : Word) (c : Bool) : adcSum (sbcDifference a m c) m (!c) = a := by
  rw [adcSum, sbcDifference, one_sub_boolWord]
  ring

/-- A difference overflows where the sum that undoes it does. -/
theorem sbcOverflow_eq_adcOverflow (a m r : Word) : sbcOverflow a m r = adcOverflow r m a := by
  rw [sbcOverflow, adcOverflow, BitVec.and_comm, BitVec.xor_comm a m, BitVec.xor_comm a r]

/-- A sum carries when it is positive as a signed Word and does not fit a byte. -/
theorem adcCarry_eq (r : Word) : adcCarry r = decide (255 < r.toNat ∧ r.toNat < 2 ^ 31) := by
  change decide (255 < r.toInt) = _
  rw [decide_eq_decide, BitVec.toInt_eq_toNat_cond]
  split <;> omega

/-- A difference carries when its sign bit is clear. -/
theorem sbcCarry_eq (r : Word) : sbcCarry r = decide (r.toNat < 2 ^ 31) := by
  change decide (0 ≤ r.toInt) = _
  rw [decide_eq_decide, BitVec.toInt_eq_toNat_cond]
  split <;> omega

/-- The carry is the ninth bit of a sum of bytes. -/
theorem lowByte_adcSum_add_carry {a m : Word} (c : Bool) (ha : a.toNat < 256) (hm : m.toNat < 256) :
    (lowByte (adcSum a m c)).toNat + 256 * (adcCarry (adcSum a m c)).toNat = a.toNat + m.toNat + c.toNat := by
  have hc : c.toNat ≤ 1 := c.toNat_le
  rw [lowByte_toNat, adcCarry_eq, toNat_decide, adcSum_toNat]
  split <;> omega

/-- The inverted carry is the borrow of a difference of bytes. -/
theorem lowByte_sbcDifference_add {a m : Word} (c : Bool) (ha : a.toNat < 256) (hm : m.toNat < 256) :
    (lowByte (sbcDifference a m c)).toNat + m.toNat + (1 - c.toNat) =
      a.toNat + 256 * (1 - (sbcCarry (sbcDifference a m c)).toNat) := by
  have hsum : a.toNat = ((sbcDifference a m c).toNat + m.toNat + (1 - c.toNat)) % 2 ^ 32 := by
    rw [← toNat_not, ← adcSum_toNat, adcSum_sbcDifference]
  have hr : (sbcDifference a m c).toNat < 2 ^ 32 := (sbcDifference a m c).isLt
  rw [lowByte_toNat, sbcCarry_eq, toNat_decide]
  split <;> omega

/-- The operands' low bytes have one sign and the result's low byte has the other. -/
theorem adcOverflow_iff (a m r : Word) :
    adcOverflow a m r = true ↔
      (128 ≤ a.toNat % 256 ↔ 128 ≤ m.toNat % 256) ∧ ¬ (128 ≤ a.toNat % 256 ↔ 128 ≤ r.toNat % 256) := by
  rw [adcOverflow, BitVec.getLsbD_and, BitVec.getLsbD_xor, BitVec.getLsbD_xor, getLsbD_seven, getLsbD_seven,
    getLsbD_seven]
  by_cases ha : 128 ≤ a.toNat % 256 <;> by_cases hm : 128 ≤ m.toNat % 256 <;> simp [ha, hm]

/-- V after a sum of any Words: the signed low byte is not the sum of the signed low bytes. -/
theorem adcOverflow_adcSum_iff (a m : Word) (c : Bool) :
    adcOverflow a m (adcSum a m c) = true ↔
      ((adcSum a m c).setWidth 8).toInt ≠ (a.setWidth 8).toInt + (m.setWidth 8).toInt + c.toNat := by
  have hr := adcSum_toNat a m c
  have hc : c.toNat ≤ 1 := c.toNat_le
  rw [adcOverflow_iff, toInt_setWidth_eight, toInt_setWidth_eight, toInt_setWidth_eight]
  omega

/-- V after a difference of any Words: the signed low byte is not the difference of the signed low bytes. -/
theorem sbcOverflow_sbcDifference_iff (a m : Word) (c : Bool) :
    sbcOverflow a m (sbcDifference a m c) = true ↔
      ((sbcDifference a m c).setWidth 8).toInt ≠
        (a.setWidth 8).toInt - (m.setWidth 8).toInt - (1 - c.toNat : Nat) := by
  have hsum := adcOverflow_adcSum_iff (sbcDifference a m c) m !c
  rw [adcSum_sbcDifference, toNat_not] at hsum
  rw [sbcOverflow_eq_adcOverflow, hsum]
  omega

/-- Settles O36: the carry and overflow laws of the sum, and those of the difference as the sum that undoes it. -/
theorem adcAndSbcAreByteArithmeticWithCarry : Obligations.AdcAndSbcAreByteArithmeticWithCarry := by
  intro v s m hm ha hmlt
  refine ⟨⟨_, exec_adc hm rfl, lowByte_adcSum_add_carry s.c ha hmlt, fun hrule => ?adc⟩,
    ⟨_, exec_sbc hm rfl, lowByte_sbcDifference_add s.c ha hmlt, fun hrule => ?sbc⟩⟩
  case adc =>
    rw [hrule, setWidth_lowByte]
    exact adcOverflow_adcSum_iff s.a m s.c
  case sbc =>
    rw [hrule, setWidth_lowByte]
    exact sbcOverflow_sbcDifference_iff s.a m s.c

end Sys2Proof.Machine
end

section
/-! Compares (42_compare.md): their next states, and what a BEQ after one tests. -/
namespace Sys2Proof.Machine

/-- Settles O38: each compare writes its flag (CMP its difference too) from the Word at `ea`, then the increment. -/
theorem comparesSetCarryAndCmpNarrowsA : Obligations.ComparesSetCarryAndCmpNarrowsA := by
  intro v s m hm
  rw [hm, ← s.memRead_ea v]
  refine ⟨?cmp, ?cpx, ?cpy⟩
  all_goals exact endInstr_ok_of_ne s _ (by decide)

/-- R160: what CMP leaves in A is 0 exactly on Words with one low byte. -/
theorem cmpResult_eq_zero_iff (a m : Word) : cmpResult a m = 0 ↔ a.setWidth 8 = m.setWidth 8 := by
  have hsub : (a - m).toNat = (2 ^ 32 - m.toNat + a.toNat) % 2 ^ 32 := BitVec.toNat_sub a m
  have hm : m.toNat < 2 ^ 32 := m.isLt
  rw [← BitVec.toNat_inj, ← BitVec.toNat_inj, cmpResult, lowByte_toNat, hsub, BitVec.toNat_setWidth,
    BitVec.toNat_setWidth]
  change _ = 0 ↔ _
  omega

/-- R30: Z is set exactly when A is 0. -/
theorem zeroFlag_iff (a : Word) : zeroFlag a = true ↔ a = 0 := beq_iff_eq

/-- R212: BEQ lands on its operand when Z is set, else on the next word. -/
theorem exec_beq (target : Operand) (s : State) :
    exec (.beq target) s = .next (s.setPc (if zeroFlag s.a then target.setWidth 32 else s.pc + 1)) :=
  congrArg Host.Outcome.next (s.branchIf_advance _ target (by decide))

/-- R212: where the target is not the fall-through address, the PC after a BEQ tells whether A is 0. -/
theorem beq_pc_eq_target_iff {target : Operand} {s u : State} (hne : target.toNat ≠ (s.pc + 1).toNat)
    (h : exec (.beq target) s = .next u) : u.pc = target.setWidth 32 ↔ s.a = 0 := by
  have hfall : s.pc + 1 ≠ target.setWidth 32 := by
    intro heq
    rw [heq, BitVec.toNat_setWidth_of_le (by decide)] at hne
    exact hne rfl
  obtain rfl := Host.Outcome.next.inj ((exec_beq target s).symm.trans h)
  rw [State.setPc_pc, ite_eq_left_iff, imp_iff_not hfall, not_not, zeroFlag_iff]

/-- Settles O39: BEQ tests the A that the compare left: `cmpResult` after CMP, the old A after CPX and CPY. -/
theorem beqAfterCmpTestsTheLowBytes : Obligations.BeqAfterCmpTestsTheLowBytes := by
  intro v target s t u hne hu
  obtain ⟨hcmp, hcpx, hcpy⟩ := comparesSetCarryAndCmpNarrowsA v s _ rfl
  have hbeq (hpc : t.pc = s.pc + 1) : u.pc = target.setWidth 32 ↔ t.a = 0 :=
    beq_pc_eq_target_iff (by rw [hpc, BitVec.add_assoc]; exact hne) hu
  refine ⟨fun ht => ?cmp, fun ht => ?index⟩
  case cmp =>
    obtain rfl := Host.Outcome.next.inj (hcmp.symm.trans ht)
    exact (hbeq rfl).trans (cmpResult_eq_zero_iff _ _)
  case index =>
    rcases ht with ht | ht
    · obtain rfl := Host.Outcome.next.inj (hcpx.symm.trans ht)
      exact hbeq rfl
    · obtain rfl := Host.Outcome.next.inj (hcpy.symm.trans ht)
      exact hbeq rfl

end Sys2Proof.Machine
end

section
/-! Increment and decrement (43_incdec.md): INC and DEC on the operand's cell, the index instructions on their register. -/
namespace Sys2Proof.Machine

/-- R81, R83: an execute phase that updates the operand's cell, then the increment. -/
theorem endInstr_updateCell_ea {op : Op} (v : Operand) (s : State) (f : Word → Word) (hop : op ≠ .rts) :
    endInstr op s (.ok (s.updateCell (ea v) f)) =
      .next { s with mem := s.mem.write v.toNat (f (s.mem.read v.toNat)), pc := s.pc + 1 } := by
  rw [endInstr_ok_of_ne _ _ hop, State.updateCell, State.memRead_ea, State.memWrite, ea_toNat]
  rfl

/-- Settles O40: each is one memory write at the operand, so the laws of read after write give its cell and its frame. -/
theorem incAndDecUpdateOneCell : Obligations.IncAndDecUpdateOneCell := by
  intro v s
  have hinc : exec (.inc v) s = _ := endInstr_updateCell_ea v s (fun w => lowByte (w + 1)) (by decide)
  have hdec : exec (.dec v) s = _ := endInstr_updateCell_ea v s (fun w => lowByte (w - 1)) (by decide)
  exact ⟨_, _, hinc, hdec,
    rfl, Memory.read_write_same _ _ _, fun _ hb => Memory.read_write_other _ _ hb,
    rfl, Memory.read_write_same _ _ _, fun _ hb => Memory.read_write_other _ _ hb⟩

/-- R22: with the index registers in use, an index operation ends with its register write and the increment. -/
theorem endInstr_updateIndex_registers {s : State} {op : Op} (r : State) (f : Word → Word) (hop : op ≠ .rts)
    (h : s.cfg.indexStorage = .registers) :
    endInstr op s (.ok (s.updateIndex r f)) = .next (r.setPc (r.pc + 1)) := by
  rw [State.updateIndex_registers r f h, endInstr_ok_of_ne _ _ hop]

/-- Settles O41: the register write of each, at full width, is its whole execute phase. -/
theorem indexInstructionsUpdateTheirRegister : Obligations.IndexInstructionsUpdateTheirRegister := by
  intro s h
  refine ⟨?inx, ?iny, ?dex, ?dey⟩
  all_goals exact endInstr_updateIndex_registers _ _ (by decide) h

end Sys2Proof.Machine
end

section
/-! Pushes and pops of the accumulator, and DEL (44_stack.md). -/
namespace Sys2Proof.Machine

/-- R41, R83: a pop from a stack with a top, whose value `f` writes to a register, then the increment. -/
theorem endInstr_popInto_append {op : Op} {s : State} {rest : List Word} {top : Word} (f : State → Word → State)
    (hop : op ≠ .rts) (h : s.stack = rest ++ [top]) :
    endInstr op s (s.popInto f) = .next ((f (s.setStack rest) top).setPc ((f (s.setStack rest) top).pc + 1)) := by
  rw [State.popInto_append f h, endInstr_ok_of_ne _ _ hop]

/-- R304, R305: a pop from an empty stack, whatever it was to write. -/
theorem endInstr_popInto_empty {op : Op} {s : State} (f : State → Word → State) (h : s.stack = []) :
    endInstr op s (s.popInto f) = .next (faultedBy s .stackUnderflow op) := by
  rw [State.popInto_empty f h, endInstr_error]
  rfl

/-- Settles O43: the two ways a push ends, with A as its value. -/
theorem phaAndPhpPushTheAccumulator : Obligations.PhaAndPhpPushTheAccumulator := by
  refine ⟨⟨⟨rfl, rfl, rfl⟩, ⟨rfl, rfl, rfl⟩⟩,
    fun s => ⟨fun hroom => ⟨?phaRoom, ?phpRoom⟩, fun hfull => ⟨?phaFull, ?phpFull⟩⟩⟩
  case phaRoom | phpRoom => exact endInstr_push_of_room s.a (by decide) hroom
  case phaFull | phpFull => exact endInstr_push_of_full s.a hfull

/-- Settles O44: the two ways a pop ends, its value written to A or to nothing. -/
theorem plaPlpAndDelPopTheStack : Obligations.PlaPlpAndDelPopTheStack := by
  refine ⟨⟨⟨rfl, rfl, rfl⟩, ⟨rfl, rfl, rfl⟩, ⟨rfl, rfl, rfl⟩⟩,
    fun s => ⟨fun rest top h => ⟨?pla, ?plp, ?del⟩, fun h i hi => ?empty⟩⟩
  case pla | plp => exact endInstr_popInto_append State.setA (by decide) h
  case del => exact endInstr_popInto_append (fun t _ => t) (by decide) h
  case empty =>
    have hfault : exec i s = .next (faultedBy s .stackUnderflow i.op) := by
      simp only [List.mem_cons, List.not_mem_nil, or_false] at hi
      obtain rfl | rfl | rfl := hi
      · exact endInstr_popInto_empty State.setA h
      · exact endInstr_popInto_empty State.setA h
      · exact endInstr_popInto_empty (fun t _ => t) h
    exact ⟨_, rfl, hfault⟩

end Sys2Proof.Machine
end

section
/-! Control transfer (45_control.md): branches and jumps, LOOP, subroutine call and return, and the runs of an instruction that transfers control to itself. -/
namespace Sys2Proof.Machine

/-! ### Branches (R210 to R219) -/

/-- R210: a branch's execute phase and its increment write the PC alone. -/
theorem endInstr_branchIf {op : Op} (s : State) (cond : Bool) (v : Operand) (hop : op ≠ .rts) :
    endInstr op s (.ok (s.branchIf cond v)) = .next { s with pc := if cond then v.setWidth 32 else s.pc + 1 } :=
  congrArg Host.Outcome.next (s.branchIf_advance cond v hop)

/-- R210: a branch on a condition that is not to hold. -/
theorem endInstr_branchIf_not {op : Op} (s : State) (cond : Bool) (v : Operand) (hop : op ≠ .rts) :
    endInstr op s (.ok (s.branchIf (!cond) v)) = .next { s with pc := if cond then s.pc + 1 else v.setWidth 32 } := by
  rw [endInstr_branchIf s _ v hop]
  cases cond <;> rfl

/-- Settles O46: the branch whose condition always holds. -/
theorem jmpLandsOnItsOperand : Obligations.JmpLandsOnItsOperand :=
  ⟨⟨rfl, rfl, rfl⟩, fun v s => endInstr_branchIf s true v (by decide)⟩

/-- Settles O47: the two branches on Z, which is set exactly when A is 0. -/
theorem beqAndBneTestTheAccumulator : Obligations.BeqAndBneTestTheAccumulator := by
  refine ⟨⟨⟨rfl, rfl, rfl⟩, ⟨rfl, rfl, rfl⟩⟩, fun v s => ?_⟩
  simp only [← zeroFlag_iff]
  exact ⟨endInstr_branchIf s (zeroFlag s.a) v (by decide), endInstr_branchIf_not s (zeroFlag s.a) v (by decide)⟩

/-- Settles O48: the two branches on C. -/
theorem bccAndBcsTestTheCarry : Obligations.BccAndBcsTestTheCarry :=
  ⟨⟨⟨rfl, rfl, rfl⟩, ⟨rfl, rfl, rfl⟩⟩, fun v s =>
    ⟨endInstr_branchIf_not s s.c v (by decide), endInstr_branchIf s s.c v (by decide)⟩⟩

/-- R31: under `SIGN_BIT = 31`, N is the sign of the Word. -/
theorem signFlag_bit31 (a : Word) : signFlag .bit31 a = decide (a.toInt < 0) :=
  calc signFlag .bit31 a
      = a.msb := (BitVec.msb_eq_getLsbD_last a).symm
    _ = decide (a.toInt < 0) := BitVec.msb_eq_toInt

/-- Settles O49: the two branches on N, read as the statement reads it, and the two on V. -/
theorem signAndOverflowBranches : Obligations.SignAndOverflowBranches := by
  intro v s n hn
  have hflag : n = signFlag s.cfg.signBit s.a := by
    rw [hn]
    cases s.cfg.signBit with
    | bit31 => exact (signFlag_bit31 s.a).symm
    | bit7 => rfl
  rw [hflag]
  refine ⟨?bmi, ?bpl, ?bvc, ?bvs⟩
  case bmi => exact endInstr_branchIf s (signFlag s.cfg.signBit s.a) v (by decide)
  case bpl => exact endInstr_branchIf_not s (signFlag s.cfg.signBit s.a) v (by decide)
  case bvc => exact endInstr_branchIf_not s s.v v (by decide)
  case bvs => exact endInstr_branchIf s s.v v (by decide)

/-! ### LOOP (R220) -/

theorem exec_loop (v : Operand) (s : State) : exec (.loop v) s = endInstr .loop s (s.loopPhase v) := rfl

/-- R220: a counter that does not reach 0 is written back, and LOOP lands on its operand. -/
theorem exec_loop_again {s : State} {rest : List Word} {top : Word} (v : Operand) (h : s.stack = rest ++ [top])
    (htop : top - 1 ≠ 0) :
    exec (.loop v) s = .next { s with stack := rest ++ [top - 1], pc := v.setWidth 32 } := by
  rw [exec_loop, State.loopPhase_again v h htop, endInstr_ok, State.branchIf_advance _ true v (by decide),
    State.replaceTop, h, List.dropLast_concat]
  rfl

/-- R220: a counter that reaches 0 is popped, and LOOP falls through. -/
theorem exec_loop_last {s : State} {rest : List Word} {top : Word} (v : Operand) (h : s.stack = rest ++ [top])
    (htop : top - 1 = 0) : exec (.loop v) s = .next { s with stack := rest, pc := s.pc + 1 } := by
  rw [exec_loop, State.loopPhase_last v h htop, endInstr_ok_of_ne _ _ (by decide)]
  rfl

/-- Settles O50: the three ways LOOP ends. -/
theorem loopCountsTheStackTopDown : Obligations.LoopCountsTheStackTopDown := by
  refine fun v s => ⟨fun rest top h => ⟨fun hne => ?again, fun heq => ?last⟩, fun h => ?empty⟩
  case again => exact exec_loop_again v h (sub_ne_zero.mpr hne)
  case last => exact exec_loop_last v h (sub_eq_zero.mpr heq)
  case empty =>
    rw [exec_loop, State.loopPhase_empty v h, endInstr_error]
    rfl

/-! ### Subroutines (R221 to R223) -/

theorem exec_jsr (v : Operand) (s : State) :
    exec (.jsr v) s = endInstr .jsr s ((s.push (s.pc + 2)).map (·.branchIf true v)) := rfl

/-- R221: JSR with room on the stack pushes its link and lands on its operand. -/
theorem exec_jsr_of_room {s : State} (v : Operand) (hroom : s.cfg.stackCapacity ≠ some s.stack.length) :
    exec (.jsr v) s = .next { s with stack := s.stack ++ [s.pc + 2], pc := v.setWidth 32 } := by
  rw [exec_jsr, State.push_ok _ hroom, Except.map, endInstr_ok, State.branchIf_advance _ true v (by decide)]
  rfl

/-- Settles O51: the two ways JSR's push ends. -/
theorem jsrPushesTheLinkAndJumps : Obligations.JsrPushesTheLinkAndJumps := by
  refine fun v s => ⟨exec_jsr_of_room v, fun hfull => ?full⟩
  rw [exec_jsr, State.push_full _ hfull, Except.map, endInstr_error]
  rfl

/-- R222, R83: RTS on a stack with a top. -/
theorem exec_rts_append {s : State} {rest : List Word} {link : Word} (h : s.stack = rest ++ [link]) :
    exec .rts s = .next { s with stack := rest, pc := if s.cfg.rtsIncrement then link + 1 else link } :=
  calc exec .rts s
      = endInstr .rts s (s.popInto State.setPc) := rfl
    _ = .next (((s.setStack rest).setPc link).advance .rts) := by rw [State.popInto_append _ h, endInstr_ok]
    _ = _ := congrArg Host.Outcome.next (State.advance_rts _)

/-- Settles O52: the two ways RTS's pop ends. -/
theorem rtsPopsThePc : Obligations.RtsPopsThePc :=
  fun _ => ⟨fun _ _ h => exec_rts_append h, fun h => endInstr_popInto_empty State.setPc h⟩

/-- Settles O53: the link that JSR pushed is the top that RTS pops. -/
theorem callAndReturnResumeTheCaller : Obligations.CallAndReturnResumeTheCaller := by
  intro v s t u hroom hjsr hstack hcfg
  obtain rfl := Host.Outcome.next.inj ((exec_jsr_of_room v hroom).symm.trans hjsr)
  refine ⟨rfl, ?_⟩
  rw [exec_rts_append hstack, hcfg, BitVec.add_assoc]
  rfl

/-! ### An instruction that transfers control to itself -/

/-- A running machine with legal parameters whose next instruction is `i`, at the operand address `k`. -/
structure State.AboutTo (s : State) (k : Operand) (i : Instr) : Prop where
  legal : s.cfg.legal = true
  running : s.status = .running
  pc : s.pc = k.setWidth 32
  inRange : s.pc.toInt < s.cfg.pcLimit
  decoded : decode s.cfg (s.mem.read k.toNat) = .ok i

/-- R82: its step is the instruction. -/
theorem State.AboutTo.step_eq {s : State} {k : Operand} {i : Instr} (h : s.AboutTo k i) : step s = exec i s := by
  have hpc : s.pc.toNat = k.toNat := by rw [h.pc, BitVec.toNat_setWidth_of_le (by decide)]
  have hnonneg : 0 ≤ s.pc.toInt := by
    have hk : k.toNat < 2 ^ 16 := k.isLt
    rw [BitVec.toInt_eq_toNat_of_lt (by omega)]
    omega
  exact stepRunsTheDecodedInstruction s i h.legal h.running hnonneg h.inRange (hpc ▸ h.decoded)

/-- Which instruction comes next does not depend on the stack. -/
theorem State.AboutTo.setStack {s : State} {k : Operand} {i : Instr} (h : s.AboutTo k i) (l : List Word) :
    (s.setStack l).AboutTo k i :=
  ⟨h.legal, h.running, h.pc, h.inRange, h.decoded⟩

/-- R211: JMP k at address k is a step to the same state. -/
theorem State.AboutTo.step_jmp_self {s : State} {k : Operand} (h : s.AboutTo k (.jmp k)) :
    step s = .next s := by
  rw [h.step_eq, jmpLandsOnItsOperand.2, ← h.pc]

/-- Settles O55: a step that answers the same state never ends a run. -/
theorem jumpToItselfRunsForever : Obligations.JumpToItselfRunsForever :=
  fun _ _ n hl hr hpc hlt hd => run_of_step_self n (State.AboutTo.step_jmp_self ⟨hl, hr, hpc, hlt, hd⟩)

/-- R220: a counter that does not reach 0 leaves LOOP k at address k about to run again. -/
theorem State.AboutTo.step_loop_again {s : State} {k : Operand} {rest : List Word} {top : Word}
    (h : s.AboutTo k (.loop k)) (hs : s.stack = rest ++ [top]) (htop : top - 1 ≠ 0) :
    step s = .next (s.setStack (rest ++ [top - 1])) := by
  rw [h.step_eq, exec_loop_again k hs htop, ← h.pc]
  rfl

/-- R220: by induction on the counter less 1, which a step that branches takes down by 1. -/
theorem State.AboutTo.run_loop_self {s : State} {k : Operand} {rest : List Word} {top : Word} {m : Nat}
    (h : s.AboutTo k (.loop k)) (hs : s.stack = rest ++ [top]) (hm : (top - 1).toNat = m) :
    Host.Core.run core (m + 1) s = .next { s with stack := rest, pc := s.pc + 1 } := by
  induction m generalizing s top with
  | zero =>
    have htop : top - 1 = 0 := BitVec.eq_of_toNat_eq hm
    rw [run_succ 0 (h.step_eq.trans (exec_loop_last k hs htop)), run_zero]
  | succ m ih =>
    have htop : top - 1 ≠ 0 := by
      intro h0
      rw [h0] at hm
      simp at hm
    have hm' : (top - 1 - 1).toNat = m := by bv_omega
    rw [run_succ (m + 1) (h.step_loop_again hs htop)]
    exact ih (h.setStack _) rfl hm'

/-- R220: the steps a counter takes down to 0, where 0 itself counts as 2^32. -/
theorem loopCount_eq (n : Word) : (if n = 0 then 2 ^ 32 else n.toNat) = (n - 1).toNat + 1 := by
  split
  · subst n; rfl
  · bv_omega

/-- Settles O54, by induction on the counter (`run_loop_self`). -/
theorem loopEndsAfterCounterManySteps : Obligations.LoopEndsAfterCounterManySteps := by
  intro s k rest n hl hr hpc hlt hd hs
  rw [loopCount_eq]
  exact State.AboutTo.run_loop_self ⟨hl, hr, hpc, hlt, hd⟩ hs rfl

end Sys2Proof.Machine
end

section
/-! Transfers, flags, TXS and the instructions without effect (46_transfer_flag.md). -/
namespace Sys2Proof.Machine

/-! ### One register or flag, or nothing (R250 to R254, R256 to R265) -/

/-- Settles O56: each transfer is one register write, then the increment. -/
theorem transfersCopyWholeWords : Obligations.TransfersCopyWholeWords := by
  refine fun s => ⟨?tax, ?tay, ?txa, ?tya, ?tsx⟩
  all_goals exact endInstr_ok_of_ne s _ (by decide)

/-- Settles O58: each is one flag write, then the increment; that only ADC and SBC make V true is a clause of O22. -/
theorem flagInstructionsWriteOneFlag : Obligations.FlagInstructionsWriteOneFlag := by
  refine ⟨⟨⟨rfl, rfl, rfl⟩, ⟨rfl, rfl, rfl⟩, ⟨rfl, rfl, rfl⟩⟩, fun s => ⟨?clc, ?sec, ?clv⟩,
    fun i s t h hs ht => ?onlyAdcAndSbc⟩
  case clc | sec | clv => exact endInstr_ok_of_ne s _ (by decide)
  case onlyAdcAndSbc =>
    obtain ⟨-, -, -, hv⟩ := onlyTheListedInstructionsWriteFlags i s t h
    obtain hold | ⟨hop, -⟩ := hv ht
    · exact absurd (hs.symm.trans hold) (by decide)
    · exact hop

/-- Settles O59: the execute phase of each of the seven is the state itself, then the increment. -/
theorem noEffectInstructionsOnlyAdvanceThePc : Obligations.NoEffectInstructionsOnlyAdvanceThePc := by
  intro i s hi
  simp only [List.mem_cons, List.not_mem_nil, or_false] at hi
  obtain rfl | rfl | rfl | rfl | rfl | rfl | rfl := hi
  all_goals exact endInstr_ok_of_ne s s (by decide)

/-! ### TXS (R255) -/

section
variable {s : State} {n : Word}

/-- R44: a negative size. -/
theorem State.setSize_of_neg (h : n.toInt < 0) : s.setSize n = .error .stackSizeRange := if_pos h

/-- R44: a size up to the present one keeps that many bottom entries. -/
theorem State.setSize_of_le (h0 : 0 ≤ n.toInt) (h : n.toInt ≤ s.stack.length) :
    s.setSize n = .ok (s.setStack (s.stack.take n.toNat)) := by
  rw [State.setSize, if_neg (not_lt.mpr h0)]
  exact if_pos h

/-- R44: a size above the present one is left to `TXS_GROW_POLICY`. -/
theorem State.setSize_of_gt (h : (s.stack.length : Int) < n.toInt) :
    (s.cfg.txsGrowPolicy = .fault → s.setSize n = .error .stackSizeRange) ∧
    (s.cfg.txsGrowPolicy = .noop → s.setSize n = .ok s) ∧
    (s.cfg.txsGrowPolicy = .padZero → s.setSize n = State.pushZeros (n.toNat - s.stack.length) s) := by
  have hneg : ¬ n.toInt < 0 := by omega
  have hle : ¬ n.toInt ≤ s.stackSize := not_le.mpr h
  rw [State.setSize, if_neg hneg, if_neg hle]
  refine ⟨fun hp => ?fault, fun hp => ?noop, fun hp => ?padZero⟩
  case fault | noop => rw [hp]
  case padZero => rw [hp]; rfl

/-- A stack below the size `n` holds `n` entries once the missing ones are pushed. -/
theorem length_add_missing (h : (s.stack.length : Int) < n.toInt) :
    s.stack.length + (n.toNat - s.stack.length) = n.toNat := by
  have hn : (n.toNat : Int) = n.toInt := toNat_of_nonneg (by omega)
  omega

/-- R255, R83: a `setSize(X)` that succeeds, then the increment. -/
theorem exec_txs_of_ok {t : State} (h : s.setSize s.x = .ok t) : exec .txs s = .next (t.setPc (t.pc + 1)) :=
  calc exec .txs s
      = endInstr .txs s (s.setSize s.x) := rfl
    _ = _ := by rw [h, endInstr_ok_of_ne _ _ (by decide)]

/-- R304, R306: a `setSize(X)` that fails changes nothing but to take the fault. -/
theorem exec_txs_of_error {k : FaultKind} (h : s.setSize s.x = .error k) :
    exec .txs s = .next (faultedBy s k .txs) :=
  calc exec .txs s
      = endInstr .txs s (s.setSize s.x) := rfl
    _ = .next (s.takeFault k (some (s.cfg.opcodeMap.number .txs))) := by rw [h, endInstr_error]

end

/-- Settles O57: the ways `setSize(X)` ends, padding within the capacity and past it among them. -/
theorem txsSetsTheStackSize : Obligations.TxsSetsTheStackSize := by
  refine fun s => ⟨fun hneg => ?negative, fun h0 hle => ?truncated, fun hgt hp => ?fault, fun hgt hp => ?noop,
    fun hgt hp => ⟨fun hroom => ?padded, fun n hn hle hlt => ?overflow⟩⟩
  case negative => exact exec_txs_of_error (State.setSize_of_neg hneg)
  case truncated => exact exec_txs_of_ok (State.setSize_of_le h0 hle)
  case fault =>
    obtain ⟨hfault, -, -⟩ := State.setSize_of_gt hgt
    exact exec_txs_of_error (hfault hp)
  case noop =>
    obtain ⟨-, hnoop, -⟩ := State.setSize_of_gt hgt
    exact exec_txs_of_ok (hnoop hp)
  case padded =>
    obtain ⟨-, -, hpad⟩ := State.setSize_of_gt hgt
    have hzeros := State.pushZeros_ok (n := s.x.toNat - s.stack.length) (by rwa [length_add_missing hgt])
    exact exec_txs_of_ok ((hpad hp).trans hzeros)
  case overflow =>
    obtain ⟨-, -, hpad⟩ := State.setSize_of_gt hgt
    have hzeros := State.pushZeros_overflow (n := s.x.toNat - s.stack.length) hn hle (by rwa [length_add_missing hgt])
    exact exec_txs_of_error ((hpad hp).trans hzeros)

end Sys2Proof.Machine
end

section
/-! HALT and unknown words (47_halt_unknown.md), and the step of a terminal state (60_exceptions.md R316). -/
namespace Sys2Proof.Machine

theorem exec_halt (s : State) : exec .halt s = .next s.halt := rfl

/-- Settles O60: the two settings of `HALT_PC_ADVANCE`. -/
theorem haltStopsCleanly : Obligations.HaltStopsCleanly := by
  intro s
  rw [exec_halt, State.halt]
  exact ⟨fun hstay => by rw [hstay]; rfl, fun hadvance => by rw [hadvance]; rfl⟩

/-- R294, R87: a zero high byte is always accepted, and HALT's number is 0 in every legal map. -/
theorem decode_zero {cfg : Config} (hl : cfg.legal = true) : decode cfg 0 = .ok .halt :=
  decode_eq_ok_iff.mpr ⟨fun h => h.1 rfl, OpcodeMap.operation_zero hl, rfl⟩

/-- Settles O14: the Word 0 decodes as HALT (`decode_zero`), so the step is HALT's. -/
theorem runningOffTheProgramHalts : Obligations.RunningOffTheProgramHalts := by
  intro s hl hr hge hlt hzero
  rw [stepRunsTheDecodedInstruction s .halt hl hr hge hlt (hzero ▸ decode_zero hl), exec_halt]
  rfl

/-- Settles O7: the step takes the Unknown branch, which `UNKNOWN_OPCODE_MODE` decides. -/
theorem unknownWordsAreSkippedOrFault : Obligations.UnknownWordsAreSkippedOrFault := by
  intro s u hl hr hge hlt hd
  have hp : pcInRange s.cfg s.pc = true := pcInRange_iff.mpr ⟨hge, hlt⟩
  rw [step_of_unknown hl hr hp ((decode_fetchWord hp).trans hd), State.fetchWord_eq hp]
  refine ⟨fun hm => ?lenient, fun hm => ?strict⟩
  case lenient => rw [State.unknownWord_lenient _ hm]
  case strict => rw [State.unknownWord_strict _ hm]; rfl

theorem reportOf_of_terminal {s : State} (t : State) (h : s.terminal) : reportOf s t = .idle := by
  cases hs : s.status with
  | running => exact absurd hs h
  | halted | faulted => simp [reportOf, hs]

/-- Settles O8: the terminal branch of the step, of its port and of its report. -/
theorem terminalStatesAbsorbEveryStep : Obligations.TerminalStatesAbsorbEveryStep := by
  intro s hl h
  have hstep : step s = .next s := step_terminal hl h
  exact ⟨hstep, stepAccesses_of_terminal h, by rw [stepReport_of_step hstep, reportOf_of_terminal s h]⟩

end Sys2Proof.Machine
end

section
/-! Faults (60_exceptions.md): only the stack controller makes an execute phase fail, so the column `stk` of the control word (30_encoding.md R93) says which instruction can fault, and how. -/
namespace Sys2Proof.Machine

/-! ### What makes an execute phase fail -/

/-- R44, R306: `setSize` fails on a negative size, and on a larger one under the policy `fault` or when the padding passes the capacity. -/
theorem State.setSize_error {s : State} {n : Word} {k : FaultKind} (h : s.setSize n = .error k) :
    (k = .stackOverflow ∧ s.cfg.txsGrowPolicy = .padZero ∧ (s.stack.length : Int) < n.toInt ∧
      ∃ c, s.cfg.stackCapacity = some c ∧ s.stack.length ≤ c ∧ c < n.toNat) ∨
    (k = .stackSizeRange ∧ (n.toInt < 0 ∨ s.cfg.txsGrowPolicy = .fault ∧ (s.stack.length : Int) < n.toInt)) := by
  obtain ⟨hneg, hn⟩ | ⟨-, -, hn⟩ | ⟨hgt, hp, hn⟩ | ⟨-, -, hn⟩ | ⟨hgt, hp, hn⟩ := s.setSize_cases n <;> rw [hn] at h
  · cases h; exact .inr ⟨rfl, .inl hneg⟩
  · cases h
  · cases h; exact .inr ⟨rfl, .inr ⟨hp, hgt⟩⟩
  · cases h
  · obtain ⟨hz, hover⟩ | ⟨hz, -⟩ := State.pushZeros_cases (n.toNat - s.stack.length) s <;> rw [hz] at h <;> cases h
    rw [length_add_missing hgt] at hover
    exact .inl ⟨rfl, hp, hgt, hover⟩

/-- R301: the stack controller lacks an output Word only for a pop or a count on an empty stack. -/
theorem stackOut_error {u : StackUse} {s : State} {k : FaultKind} (h : stackOut u s = .error k) :
    k = .stackUnderflow ∧ (u = .pop ∨ u = .countDown) ∧ s.stack = [] := by
  obtain ⟨hu, htop⟩ : (u = .pop ∨ u = .countDown) ∧ s.top = .error k := by
    cases u with
    | none | push | size | setSize => cases h
    | pop => exact ⟨.inl rfl, h⟩
    | countDown => exact ⟨.inr rfl, h⟩
  obtain hs | ⟨rest, w, hs⟩ := s.stack_cases
  · rw [State.top_empty hs] at htop
    cases htop
    exact ⟨rfl, hu, hs⟩
  · rw [State.top_append hs] at htop
    cases htop

/-- Once the output Word is there, only a push and a `setSize` can still fail. -/
theorem stackStage_error {u : StackUse} {top value : Word} {s : State} {k : FaultKind}
    (hout : stackOut u s = .ok top) (h : stackStage u value s = .error k) :
    (k = .stackOverflow ∧ u = .push ∧ s.cfg.stackCapacity = some s.stack.length) ∨
    (u = .setSize ∧ s.setSize s.x = .error k) := by
  have hpop (htop : s.top = .ok top) : s.popInto (fun t _ => t) ≠ .error k := by
    obtain ⟨hs, -⟩ | ⟨rest, w, -, hp⟩ := s.popInto_cases fun t _ => t
    · rw [State.top_empty hs] at htop; cases htop
    · rw [hp]; exact nofun
  cases u with
  | none | size => cases h
  | push =>
    obtain ⟨hfull, hp⟩ | ⟨-, hp⟩ := s.push_cases value <;> rw [stackStage, hp] at h <;> cases h
    exact .inl ⟨rfl, rfl, hfull⟩
  | pop => exact absurd h (hpop hout)
  | countDown =>
    by_cases hv : value = 0
    · rw [stackStage, if_pos hv] at h
      exact absurd h (hpop hout)
    · rw [stackStage, if_neg hv] at h
      cases h
  | setSize => exact .inr ⟨rfl, h⟩

/-- All the ways a phase can fail, by the use its control word makes of the stack controller. -/
theorem datapath_error {cw : ControlWord} {v : Operand} {s : State} {k : FaultKind}
    (h : datapath cw v s = .error k) :
    (k = .stackUnderflow ∧ (cw.stk = .pop ∨ cw.stk = .countDown) ∧ s.stack = []) ∨
    (k = .stackOverflow ∧ cw.stk = .push ∧ s.cfg.stackCapacity = some s.stack.length) ∨
    (cw.stk = .setSize ∧ s.setSize s.x = .error k) := by
  cases hout : stackOut cw.stk s with
  | error k' =>
    rw [datapath_of_stackOut_error hout] at h
    cases h
    exact .inl (stackOut_error hout)
  | ok top =>
    rw [datapath_of_stackStage hout] at h
    cases hstage : stackStage cw.stk (datapathAlu cw v s top).value s with
    | error k' => rw [hstage] at h; cases h; exact .inr (stackStage_error hout hstage)
    | ok t => rw [hstage] at h; cases h

/-! ### Which instruction faults -/

/-- R304: an instruction that takes a running machine to Faulted has a phase that fails, and its end is the precise fault state. -/
theorem exec_faulted {i : Instr} {s t : State} (hr : s.status = .running) (h : exec i s = .next t)
    (ht : t.status = .faulted) :
    ∃ k, datapath (controlWord i.op) i.operand s = .error k ∧ t = faultedBy s k i.op := by
  by_cases hi : i = .halt
  · rw [hi, exec_halt] at h
    cases h; cases ht
  rw [exec_eq_datapath i s hi] at h
  obtain ⟨k, hk, rfl⟩ | ⟨u, hu, rfl⟩ := endInstr_cases h
  · exact ⟨k, hk, rfl⟩
  · obtain ⟨top, t, -, hstage, rfl⟩ := datapath_ok hu
    obtain ⟨hstatus, -⟩ := datapathWrite_status_fault (controlWord i.op) i.operand s top t
    rw [State.advance_status, hstatus, stackStage_eq_setStack hstage, State.setStack_status, hr] at ht
    cases ht

theorem op_of_stk_pop : ∀ op, (controlWord op).stk = .pop ∨ (controlWord op).stk = .countDown →
    op ∈ [Op.pla, .plp, .del, .rts, .loop] :=
  Op.forall_of_all (by decide)

theorem op_of_stk_push : ∀ op, (controlWord op).stk = .push → op ∈ [Op.stx, .sty, .pha, .php, .jsr] :=
  Op.forall_of_all (by decide)

theorem op_of_stk_setSize : ∀ op, (controlWord op).stk = .setSize → op = .txs :=
  Op.forall_of_all (by decide)

/-- Settles O27: each way a phase can fail (`datapath_error`) is one clause, TXS's two kinds apart (`setSize_error`). -/
theorem faultsComeOnlyFromTheirInstructions : Obligations.FaultsComeOnlyFromTheirInstructions := by
  intro i s t hr h ht
  obtain ⟨k, hk, rfl⟩ := exec_faulted hr h ht
  obtain ⟨rfl, hstk, hempty⟩ | ⟨rfl, hstk, hfull⟩ | ⟨hstk, hsize⟩ := datapath_error hk
  · exact .inl ⟨rfl, op_of_stk_pop i.op hstk, hempty⟩
  · exact .inr (.inl ⟨rfl, op_of_stk_push i.op hstk, hfull⟩)
  · have hop : i.op = .txs := op_of_stk_setSize i.op hstk
    obtain ⟨rfl, hp, hgt, hover⟩ | ⟨rfl, hrange⟩ := State.setSize_error hsize
    · exact .inr (.inr (.inl ⟨rfl, hop, hp, hgt, hover⟩))
    · exact .inr (.inr (.inr ⟨rfl, hop, hrange⟩))

/-! ### The fault of a step -/

/-- R302, R304: an instruction's fault is taken in the state it began in, and its kind is not the PC check's. -/
theorem exec_faulted_kind {i : Instr} {s t : State} (hr : s.status = .running) (h : exec i s = .next t)
    (ht : t.status = .faulted) : ∃ k ≠ .outOfRangeProgramCounter, t = faultedBy s k i.op := by
  obtain ⟨rfl, -⟩ | ⟨rfl, -⟩ | ⟨rfl, -⟩ | ⟨rfl, -⟩ := faultsComeOnlyFromTheirInstructions i s t hr h ht
  all_goals exact ⟨_, by decide, rfl⟩

/-- R293: an unknown word takes a running machine to Faulted in strict mode alone. -/
theorem State.unknownWord_faulted {s : State} {opc : Opcode} (hr : s.status = .running)
    (ht : (s.unknownWord opc).status = .faulted) : s.unknownWord opc = s.takeFault .unknownOpcode (some opc) := by
  cases hm : s.cfg.unknownOpcodeMode with
  | lenient =>
    rw [State.unknownWord_lenient opc hm] at ht
    exact absurd (hr.symm.trans ht) (by decide)
  | strict => exact State.unknownWord_strict opc hm

/-- Settles O9, by the ways a step can end: the PC check, an unknown word, or an instruction whose number is the Word's opcode field. -/
theorem faultsArePrecise : Obligations.FaultsArePrecise := by
  intro s t hl hr hstep ht
  obtain ⟨-, ⟨hs, -⟩ | ⟨-, hp, rfl⟩ | ⟨-, hp, u, -, rfl⟩ | ⟨-, hp, i, hd, he⟩⟩ := step_cases hstep
  · exact absurd hr hs
  · exact ⟨_, _, rfl, .inl ⟨rfl, rfl, pcInRange_eq_false_iff.mp hp⟩⟩
  · rw [State.unknownWord_faulted hr ht, State.fetchWord_eq hp]
    exact ⟨_, _, rfl, .inr ⟨rfl, by decide, pcInRange_iff.mp hp⟩⟩
  · obtain ⟨k, hk, rfl⟩ := exec_faulted_kind hr he ht
    rw [faultedBy, number_of_decode hl hd, State.fetchWord_eq hp]
    exact ⟨_, _, rfl, .inr ⟨rfl, hk, pcInRange_iff.mp hp⟩⟩

end Sys2Proof.Machine
end

section
/-! What a program load leaves in memory (70_reset_and_hazards.md R331): the overlay's Words, and the image's elsewhere. -/
namespace Sys2Proof.Machine

/-- R331: an image's first Word goes to the address that the load has reached, while that is on the port. -/
theorem storeImage_cons {n : Nat} (w : Word) (ws : List Word) (m : Memory) (hn : n < 2 ^ 31) :
    storeImage (w :: ws) n m = storeImage ws (n + 1) (m.write n w) := by
  rw [storeImage, BitVec.toNat_ofNat, Nat.mod_eq_of_lt hn]

/-- An image stored from `n` up leaves the addresses below `n`. -/
theorem storeImage_read_below {ws : List Word} {n b : Nat} (m : Memory) (hb : b < n)
    (hfits : n + ws.length ≤ 2 ^ 31) : (storeImage ws n m).read b = m.read b := by
  induction ws generalizing n m with
  | nil => rfl
  | cons w ws ih =>
    rw [List.length_cons] at hfits
    rw [storeImage_cons _ _ _ (by omega), ih _ (by omega) (by omega), Memory.read_write_other _ _ (by omega)]

/-- R331: an image stored from `n` up puts its Word number `k` at `n + k`; past its end memory reads as before. -/
theorem storeImage_read {ws : List Word} {n : Nat} (k : Nat) (m : Memory) (hfits : n + ws.length ≤ 2 ^ 31) :
    (storeImage ws n m).read (n + k) = ws[k]?.getD (m.read (n + k)) := by
  induction ws generalizing n k m with
  | nil => rfl
  | cons w ws ih =>
    rw [List.length_cons] at hfits
    rw [storeImage_cons _ _ _ (by omega)]
    cases k with
    | zero => rw [storeImage_read_below _ (by omega) (by omega), Nat.add_zero, Memory.read_write_same]; rfl
    | succ k =>
      rw [show n + (k + 1) = n + 1 + k by omega, ih _ _ (by omega), Memory.read_write_other _ _ (by omega)]
      rfl

/-- An overlay leaves the addresses it does not name. -/
theorem storeOverlay_read_other {overlay : List (Addr × Word)} {addr : Addr} (m : Memory)
    (h : ∀ p ∈ overlay, p.1 ≠ addr) : (storeOverlay overlay m).read addr.toNat = m.read addr.toNat := by
  induction overlay generalizing m with
  | nil => rfl
  | cons p rest ih =>
    obtain ⟨hp, hrest⟩ := List.forall_mem_cons.mp h
    rw [storeOverlay, ih _ hrest, Memory.read_write_other]
    exact fun e => hp (BitVec.eq_of_toNat_eq e.symm)

/-- R331: an overlay that names no address twice puts each of its Words at its address. -/
theorem storeOverlay_read_mem {overlay : List (Addr × Word)} {p : Addr × Word} (m : Memory)
    (hn : (overlay.map Prod.fst).Nodup) (h : p ∈ overlay) : (storeOverlay overlay m).read p.1.toNat = p.2 := by
  induction overlay generalizing m with
  | nil => cases h
  | cons q rest ih =>
    rw [List.map_cons, List.nodup_cons] at hn
    obtain ⟨hfresh, hrest⟩ := hn
    rw [storeOverlay]
    obtain rfl | h := List.mem_cons.mp h
    · have hother : ∀ q ∈ rest, q.1 ≠ p.1 := fun q hq e => hfresh (e ▸ List.mem_map_of_mem hq)
      rw [storeOverlay_read_other _ hother, Memory.read_write_same]
    · exact ih _ hrest h

theorem State.load_mem (s : State) (image : List Word) (overlay : List (Addr × Word)) :
    (s.load image overlay).mem = storeOverlay overlay (storeImage image 0 []) := rfl

/-- Settles O13: the core is that of the reset, and memory is the image from 0 up under the overlay. -/
theorem programLoadPlacesImageThenOverlay : Obligations.ProgramLoadPlacesImageThenOverlay := by
  intro s image overlay hfits hn
  refine ⟨?core, fun p hp => ?overlay, fun addr haddr => ?image⟩
  case core => rfl
  case overlay => exact storeOverlay_read_mem _ hn hp
  case image =>
    have himage := storeImage_read (n := 0) addr.toNat [] (by rwa [Nat.zero_add])
    rw [Nat.zero_add] at himage
    rw [State.load_mem, storeOverlay_read_other _ haddr, himage]
    rfl

end Sys2Proof.Machine
end
